-- ==== Sys2Proof/Word.lean ====
section
/-! DEFINITION. The word types (R7) and the three two-valued notions of the bus: a line, its drive
state and its level (R9, R20). -/

namespace Sys2Proof

/-- A data byte: 8 bits, unsigned (R7, R8). -/
abbrev Byte := BitVec 8

/-- A command word or a host register's data: 32 bits, unsigned (R7, R8). -/
abbrev Word := BitVec 32

/-- The two lines of the bus: the clock line SCL and the data line SDA (R9). -/
inductive Line where
  | scl
  | sda
deriving DecidableEq, Repr

/-- The drive state of one line, the source's Line State (R9, R20). There is no constructor for a
line driven HIGH (R22). -/
inductive Drive where
  | released
  | drivenLow
deriving DecidableEq, Repr

/-- The level of a line (R9). -/
inductive Level where
  | low
  | high
deriving DecidableEq, Repr, Inhabited

end Sys2Proof
end

