-- ==== Sys2Proof/Config.lean ====
section
/-! DEFINITION. The parameters the block is built with (R6) and the free values: what the spec
leaves open, as constants without a body. -/

namespace Sys2Proof

/-- What `read_next()` of the annex's facade can return (R168): a buffered byte, or a result that is no
byte. "The value or shape of the sentinel is not given", so EMPTY_SENTINEL ranges over both. -/
inductive FacadeResult where
  /-- A byte. -/
  | byte (b : Byte)
  /-- A result that is no byte, told apart by a tag. -/
  | noByte (tag : Nat)
deriving DecidableEq, Repr, Inhabited

/-- The implementation parameters of R6: fixed when the block is built, never changed by a command
or a host access (R32). -/
structure Params where
  /-- SCL_PIN, an opaque identifier. -/
  sclPin : Nat
  /-- SDA_PIN, an opaque identifier, different from SCL_PIN. -/
  sdaPin : Nat
  /-- T_BIT, the least duration of one `hold()`, in nanoseconds (the unit is the model's, log 6). -/
  tBit : Nat
  /-- WAIT_LIMIT: none, or the number of polls after which a wait raises BUS_STUCK (R97). -/
  waitLimit : Option Nat
  /-- P_STOP_PREDRIVE: whether STOP first drives the data line low (R113). -/
  stopPredrive : Bool
  /-- BUF_CAP, the number of bytes of TXBUF and of RXBUF (R50, R51). -/
  bufCap : Nat
  /-- FACADE_CAP, used by the annex only (R165). -/
  facadeCap : Nat
  /-- EMPTY_SENTINEL, used by the annex only: OPEN (R168, D31). -/
  emptySentinel : FacadeResult
deriving DecidableEq, Repr

/-- A parameter that breaks R6, by name. -/
inductive ConfigurationError where
  /-- SCL_PIN = SDA_PIN (R6). -/
  | samePin
  /-- BUF_CAP outside 1..255 (R6, R181). -/
  | bufCapRange
  /-- WAIT_LIMIT = some 0 (R6, R181). -/
  | zeroWaitLimit
deriving DecidableEq, Repr

/-- What is wrong with the parameters, if anything (R6, R181). -/
def Params.problem (p : Params) : Option ConfigurationError :=
  if p.sclPin = p.sdaPin then some .samePin
  else if p.bufCap < 1 ∨ 255 < p.bufCap then some .bufCapRange
  else if p.waitLimit = some 0 then some .zeroWaitLimit
  else none

/-- The parameters are a configuration of this hardware (R6). -/
abbrev Params.wf (p : Params) : Prop := p.problem = none

/-- FREE VALUE (R6, R168, U8, log 22): EMPTY_SENTINEL of the default configuration, which the spec leaves
OPEN. No body: nothing constrains it. -/
opaque Config.emptySentinel : FacadeResult

/-- The defaults of R6. The two pin identifiers are "free, but distinct"; 0 and 1 are a
DESIGN CHOICE (log 6) on which nothing rests. -/
def Params.default : Params :=
  { sclPin := 0, sdaPin := 1, tBit := 4000, waitLimit := none, stopPredrive := true,
    bufCap := 255, facadeCap := 8, emptySentinel := Config.emptySentinel }

/-- FREE VALUE (R93, U11, log 3): the level the environment answers at the n-th sample of a released
line that no answer script covers. No body: nothing constrains it. -/
opaque Config.freeLevel : Nat → Level

/-- FREE VALUE (R40, U13, log 4): what the byte at a host register number holds after the given
number of resets, before anything has written it. No body: nothing constrains it. -/
opaque Config.unwritten : Nat → Nat → Byte

/-- FREE VALUE (R165, log 27): what byte `k` of the facade's buffer holds before the first request. No
body: nothing constrains it. -/
opaque Config.facadeByte : Nat → Byte

end Sys2Proof
end

