-- ==== Sys2Proof/Syntax.lean ====
section
/-! DEFINITION. The nine commands of the opcode map (R73) with the operands of R74. -/

namespace Sys2Proof

/-- One constructor per row of the opcode map (R73). -/
inductive Instr where
  /-- RELEASE line (R98). -/
  | release (line : Line)
  /-- DRIVE_LOW line (R99). -/
  | driveLow (line : Line)
  /-- READ_LINE line (R94). -/
  | readLine (line : Line)
  /-- START (R106). -/
  | start
  /-- STOP (R109). -/
  | stop
  /-- SEND_BYTE byte (R121). -/
  | sendByte (byte : Byte)
  /-- RECEIVE_BYTE ack: true is ACK, false is NAK (R127). -/
  | receiveByte (ack : Bool)
  /-- WRITE address, len (R142). -/
  | write (address : BitVec 7) (len : Byte)
  /-- READ address, count [, NOSTOP] (R146). -/
  | read (address : BitVec 7) (count : Byte) (nostop : Bool)
deriving DecidableEq, Repr

end Sys2Proof
end

