-- ==== Sys2Proof/WellFormed.lean ====
section
/-! DEFINITION. The one condition on a command that its fields' widths do not carry: the length of
a WRITE or READ against BUF_CAP (R72 (d)). -/

namespace Sys2Proof

/-- R72 (d): a WRITE or READ moves at most BUF_CAP bytes. Every other operand is legal at every
value its field has (R74). -/
def Instr.wf (p : Params) : Instr → Bool
  | .release _ => true
  | .driveLow _ => true
  | .readLine _ => true
  | .start => true
  | .stop => true
  | .sendByte _ => true
  | .receiveByte _ => true
  | .write _ len => decide (len.toNat ≤ p.bufCap)
  | .read _ count _ => decide (count.toNat ≤ p.bufCap)

end Sys2Proof
end

