-- ==== Sys2Proof/Decode.lean ====
section
/-! DEFINITION. The decoder of a command word (R70 to R75), which refuses by name, the encoder
(R73), and the assembler spelling of a command (R77). -/

namespace Sys2Proof

/-- OP = w[31:28] (R71). -/
def opField (w : Word) : BitVec 4 := w.extractLsb' 28 4

/-- Z1 = w[27:17] (R71). -/
def z1Field (w : Word) : BitVec 11 := w.extractLsb' 17 11

/-- F = w[16] (R71). -/
def fField (w : Word) : Bool := w.getLsbD 16

/-- N = w[15:8] (R71). -/
def nField (w : Word) : Byte := w.extractLsb' 8 8

/-- Z0 = w[7] (R71). -/
def z0Field (w : Word) : Bool := w.getLsbD 7

/-- ADDR = w[6:0] (R71). -/
def addrField (w : Word) : BitVec 7 := w.extractLsb' 0 7

/-- Why a word is no command of the opcode map (R72, R75). -/
inductive DecodeError where
  /-- OP is 0x0 or 0xA to 0xF (R72 (a), R75). -/
  | reservedOpcode
  /-- Z1 is not 0 (R72 (b)). -/
  | reservedZ1
  /-- Z0 is not 0 (R72 (b)). -/
  | reservedZ0
  /-- F is not 0 in a command that does not use it (R72 (c)). -/
  | unusedF
  /-- N is not 0 in a command that does not use it (R72 (c)). -/
  | unusedN
  /-- ADDR is not 0 in a command that does not use it (R72 (c)). -/
  | unusedAddr
deriving DecidableEq, Repr

/-- The operand LINE: 0 is SCL, 1 is SDA (R74). -/
def lineOfBit (b : Bool) : Line := if b then .sda else .scl

/-- The field F that names a line (R74). -/
def bitOfLine (l : Line) : Bool := match l with
  | .scl => false
  | .sda => true

/-- `i`, if the fields it does not use are 0 (R72 (c)); `f`, `n`, `a` say which it does not use. -/
def requireZero (f n a : Bool) (w : Word) (i : Instr) : Except DecodeError Instr :=
  if f && fField w then .error .unusedF
  else if n && decide (nField w ≠ 0) then .error .unusedN
  else if a && decide (addrField w ≠ 0) then .error .unusedAddr
  else .ok i

/-- The opcode map of R73, once the reserved fields are known to be 0. -/
def decodeOp (w : Word) : Except DecodeError Instr :=
  match (opField w).toNat with
  | 1 => requireZero false true true w (.release (lineOfBit (fField w)))
  | 2 => requireZero false true true w (.driveLow (lineOfBit (fField w)))
  | 3 => requireZero false true true w (.readLine (lineOfBit (fField w)))
  | 4 => requireZero true true true w .start
  | 5 => requireZero true true true w .stop
  | 6 => requireZero true false true w (.sendByte (nField w))
  | 7 => requireZero false true true w (.receiveByte (fField w))
  | 8 => requireZero true false false w (.write (addrField w) (nField w))
  | 9 => requireZero false false false w (.read (addrField w) (nField w) (fField w))
  | _ => .error .reservedOpcode

/-- The decoder, total on every 32-bit word (R72). BUF_CAP is not its business: R72 (d) is
`Instr.wf`, checked when the command is accepted (log 10). -/
def decode (w : Word) : Except DecodeError Instr :=
  if z1Field w ≠ 0 then .error .reservedZ1
  else if z0Field w then .error .reservedZ0
  else decodeOp w

/-- A command word from its fields (R70), Z1 and Z0 being 0. -/
def assemble (op : BitVec 4) (f : Bool) (n : Byte) (addr : BitVec 7) : Word :=
  op ++ (0#11) ++ BitVec.ofBool f ++ n ++ (0#1) ++ addr

/-- The command word of a command (R73). -/
def encode : Instr → Word
  | .release l => assemble 1 (bitOfLine l) 0 0
  | .driveLow l => assemble 2 (bitOfLine l) 0 0
  | .readLine l => assemble 3 (bitOfLine l) 0 0
  | .start => assemble 4 false 0 0
  | .stop => assemble 5 false 0 0
  | .sendByte b => assemble 6 false b 0
  | .receiveByte a => assemble 7 a 0 0
  | .write addr len => assemble 8 false len addr
  | .read addr count nostop => assemble 9 nostop count addr

/-- The row match/mask table of R73: the pair of `i`'s row. -/
def rowMatchMask : Instr → Word × Word
  | .release _ => (0x10000000, 0xFFFEFFFF)
  | .driveLow _ => (0x20000000, 0xFFFEFFFF)
  | .readLine _ => (0x30000000, 0xFFFEFFFF)
  | .start => (0x40000000, 0xFFFFFFFF)
  | .stop => (0x50000000, 0xFFFFFFFF)
  | .sendByte _ => (0x60000000, 0xFFFF00FF)
  | .receiveByte _ => (0x70000000, 0xFFFEFFFF)
  | .write _ _ => (0x80000000, 0xFFFF0080)
  | .read _ _ _ => (0x90000000, 0xFFFE0080)

/-- The command the decoder reads from a word numbered as the opcode table numbers it: the table's
bit 0 is the word's bit 0 (R70). Every command is one 32-bit word (R70), so a longer number is no
command; the bits above `nbits` are 0. -/
def decodeTableWord (nbits w : Nat) : Option Instr :=
  if nbits ≤ 32 then
    match decode (BitVec.ofNat 32 (w % 2 ^ nbits)) with
    | .ok i => some i
    | .error _ => none
  else none

/-- The mnemonic of R73. -/
def Instr.mnemonic : Instr → String
  | .release _ => "RELEASE"
  | .driveLow _ => "DRIVE_LOW"
  | .readLine _ => "READ_LINE"
  | .start => "START"
  | .stop => "STOP"
  | .sendByte _ => "SEND_BYTE"
  | .receiveByte _ => "RECEIVE_BYTE"
  | .write _ _ => "WRITE"
  | .read _ _ _ => "READ"

/-- One hexadecimal digit, in capitals. -/
def hexDigit (n : Nat) : Char :=
  ("0123456789ABCDEF".toList).getD (n % 16) '0'

/-- A byte in C notation, two hexadecimal digits (R77). -/
def hexByte (n : Nat) : List Char :=
  ['0', 'x', hexDigit (n / 16), hexDigit n]

/-- The spelling of a line (R77). -/
def lineText (l : Line) : List Char := match l with
  | .scl => "SCL".toList
  | .sda => "SDA".toList

/-- The operands of a command as R77 writes them, as a list of operand texts. -/
def Instr.operandTexts : Instr → List (List Char)
  | .release l => [lineText l]
  | .driveLow l => [lineText l]
  | .readLine l => [lineText l]
  | .start => []
  | .stop => []
  | .sendByte b => [hexByte b.toNat]
  | .receiveByte a => [(if a then "ACK" else "NAK").toList]
  | .write addr len => [hexByte addr.toNat, Nat.toDigits 10 len.toNat]
  | .read addr count nostop =>
    [hexByte addr.toNat, Nat.toDigits 10 count.toNat] ++ (if nostop then ["NOSTOP".toList] else [])

/-- The assembler line of a command (R77): the mnemonic in capitals, operands separated by commas. -/
def Instr.assembly (i : Instr) : List Char :=
  i.mnemonic.toList ++ (if i.operandTexts = [] then [] else [' '])
    ++ List.intercalate [',', ' '] i.operandTexts

end Sys2Proof
end

