-- ==== Sys2Proof/Machine/State.lean ====
section
/-! DEFINITION. The state of the machine: the engine's architectural state (R20, R23, R24, R28), the
buffers (R50, R51), its configuration (R6) and what the two other agents are still going to do
(R13). Plain data only. -/

namespace Sys2Proof.Machine

/-- The error codes of R175. Codes 5 to 7 are never produced (R31), so they have no constructor. -/
inductive ErrCode where
  | ok
  | noAckAddress
  | noAckData
  | busStuck
  | illegalCmd
deriving DecidableEq, Repr

/-- The places of `start()` (R105, 95 section 2). -/
inductive StartPos where
  | s1 | s2 | s3 | s4 | s5 | s6 | s7
deriving DecidableEq, Repr

/-- The places of `stop()` (R107, R113). -/
inductive StopPos where
  | p0 | p1 | p2 | p3 | p4 | p5
deriving DecidableEq, Repr

/-- The places of `send_byte(b)` (R120); the bit of the loop is BITCNT. The last place carries the
value the operation is about to return. -/
inductive SendPos where
  | b1 | b2 | b3 | b4 | b5 | a1 | a2 | a3 | a4
  | a5 (ack : Bool)
deriving DecidableEq, Repr

/-- The places of `receive_byte(a)` (R125); the bit of the loop is BITCNT. -/
inductive RecvPos where
  | c0 | c1 | c2 | c3 | c4 | c5 | k1 | k2 | k3 | k4 | k5 | k6 | k7
deriving DecidableEq, Repr

/-- Which `send_byte` of a command is running: the one of SEND_BYTE, the address byte's, or a data
byte's (R121, R141, R145). -/
inductive SendSite where
  | operand
  | address
  | data
deriving DecidableEq, Repr

/-- What a running `stop()` is followed by: the normal end, or the raise after a NAK (R141, R145). -/
inductive Closing where
  | success
  | nakAddress
  | nakData
deriving DecidableEq, Repr

/-- UPC, the micro-sequencer position (R24): the place of the next micro-op in the pseudocode of the
command in CMDR, with the operands of the running operation (log 11). -/
inductive Upc where
  /-- IDLE. -/
  | idle
  /-- The one micro-op of RELEASE, DRIVE_LOW or READ_LINE. -/
  | line
  /-- In `start()`. -/
  | start (p : StartPos)
  /-- In `stop()`. -/
  | stop (after : Closing) (p : StopPos)
  /-- In `send_byte(b)`. -/
  | send (site : SendSite) (b : Byte) (p : SendPos)
  /-- In `receive_byte(a)`. -/
  | recv (a : Bool) (p : RecvPos)
deriving DecidableEq, Repr

/-- What the host does at a step boundary (R13 (2), R29, R40). -/
inductive HostAction where
  /-- Writes `value` to register number `reg` (R29, R56). -/
  | write (reg : Nat) (value : Word)
  /-- Reads register number `reg` (R29). -/
  | read (reg : Nat)
  /-- Resets the block (R40, R200). -/
  | reset
  /-- Does nothing: the engine takes its next step. -/
  | wait
deriving DecidableEq, Repr

/-- Why a run stops with a fault. The hardware has no such stop (R186): each constructor stands for
a state that no run reaches, and `Safety.Inv` excludes it (log 17). -/
inductive Fault where
  /-- BUSY = 1 and UPC is no place of the command's pseudocode. Raised by every meaning. Safe: no run
  reaches it. -/
  | outsideProgram
  /-- An engine access to TXBUF or RXBUF at an index that is not below BUF_CAP, which R52 says does not
  happen. Raised by WRITE and READ. Safe: no run reaches it. -/
  | outsideBuffer
  /-- BUSY = 1 and CMDR holds no command. Raised by the engine's step. Safe: no run reaches it. -/
  | noCommand
deriving DecidableEq, Repr

/-- Why something has no meaning in the model. -/
inductive Refusal where
  /-- The instruction has no meaning yet. Raised by no arm: all nine have theirs. Safe. -/
  | notModelled (mnemonic : String)
  /-- The block is not built with these parameters (R181). Raised by `State.build` only, never by a
  step. Safe. -/
  | configuration (reason : ConfigurationError)
deriving DecidableEq, Repr

/-- The buffers' bytes by host register number, strictly rising; an unlisted byte has not been
written since reset (log 4). -/
abbrev Memory := List Host.Cell

/-- The state of the machine. -/
structure State where
  /-- The parameters of R6 the block was built with (log 6). -/
  cfg : Params
  /-- OUT[SCL] (R20). -/
  outScl : Drive
  /-- OUT[SDA] (R20). -/
  outSda : Drive
  /-- CMDR, the command word being executed (R23). -/
  cmdr : Word
  /-- ACC, the byte being assembled (R23). -/
  acc : Byte
  /-- DATA, the last byte received (R23). -/
  data : Byte
  /-- BITCNT, the bit loop position (R23). -/
  bitcnt : BitVec 4
  /-- IDX, the byte loop position (R23). -/
  idx : Byte
  /-- WAITCNT, the polls of the running wait (R23, R151 (f)). -/
  waitcnt : Nat
  /-- NWRITTEN (R23, R144). -/
  nwritten : Byte
  /-- NREAD (R23). -/
  nread : Byte
  /-- STATUS.BUSY (R28). -/
  busy : Bool
  /-- STATUS.ACK (R28). -/
  ack : Bool
  /-- STATUS.LVL (R28). -/
  lvl : Bool
  /-- STATUS.ERR (R28). -/
  err : ErrCode
  /-- UPC (R24). -/
  upc : Upc
  /-- TXBUF at 0x100 + i and RXBUF at 0x200 + i (R50, R51, R52). -/
  mem : Memory
  /-- What the host is still going to do; empty: it stays silent (log 2). -/
  host : List HostAction
  /-- The environment's answers to the coming samples of a released SCL (log 3). -/
  sclIn : List Level
  /-- The environment's answers to the coming samples of a released SDA (log 3). -/
  sdaIn : List Level
  /-- How many free levels have been drawn: the index of the next one (log 3). -/
  draws : Nat
  /-- How many times the block has been reset (log 4). -/
  epoch : Nat
deriving DecidableEq, Repr

/-- The state right after reset of a block built with the parameters `p` (R40). CMDR, ACC, BITCNT,
IDX and WAITCNT are "unspecified; never read before written" there: 0 is a DESIGN CHOICE (log 5). -/
def State.initial (p : Params) : State :=
  { cfg := p
    outScl := .released
    outSda := .released
    cmdr := 0
    acc := 0
    data := 0
    bitcnt := 0
    idx := 0
    waitcnt := 0
    nwritten := 0
    nread := 0
    busy := false
    ack := false
    lvl := false
    err := .ok
    upc := .idle
    mem := []
    host := []
    sclIn := []
    sdaIn := []
    draws := 0
    epoch := 0 }

/-- The machine right after reset, with the default parameters of R6 (R40). -/
def State.reset : State := State.initial Params.default

end Sys2Proof.Machine
end

