-- ==== Sys2Proof/Machine/Ops.lean ====
section
/-! DEFINITION. The named operations: the buffers' memory, the lines, the micro-ops (R10, R90 to R97),
the accept of a command (R27), its normal end and its error end (R176). -/

namespace Sys2Proof.Machine

/-! ### The buffers' memory (R50 to R52) -/

/-- Addresses strictly rise. An unlisted byte has no value of its own, so no listed value can equal it
(log 4). -/
abbrev Memory.wf (m : Memory) : Prop := m.Pairwise (fun x y => x.1 < y.1)

/-- The byte written at host register number `a` since reset, if one was. -/
def Memory.lookup : Memory → Nat → Option Byte
  | [], _ => none
  | c :: m, a => if c.1 = a then some c.2 else Memory.lookup m a

/-- Writes one byte, keeping the canonical form. -/
def Memory.write : Memory → Nat → Byte → Memory
  | [], a, v => [(a, v)]
  | c :: m, a, v =>
    if a < c.1 then (a, v) :: c :: m
    else if a = c.1 then (a, v) :: m
    else c :: Memory.write m a v

/-- TXBUF_BASE (R52). -/
def txBase : Nat := 0x100

/-- RXBUF_BASE (R52). -/
def rxBase : Nat := 0x200

/-- `MemRead(a, 1)` (R52): the byte written there, or, where nothing has been written since reset, the
free value of that byte (R40, U13, log 4). -/
def readByte (s : State) (a : Nat) : Byte :=
  match s.mem.lookup a with
  | some v => v
  | none => Config.unwritten s.epoch a

/-- `MemWrite(a, 1, v)` (R52). -/
def writeByte (a : Nat) (v : Byte) (s : State) : State :=
  { s with mem := s.mem.write a v }

/-- `TXBUF[k]` as the engine reads it; none at an index outside the buffer (R52). -/
def txByte (k : Nat) (s : State) : Option Byte :=
  if k < s.cfg.bufCap then some (readByte s (txBase + k)) else none

/-- `RXBUF[k]` as the host reads it; none at an index outside the buffer (R52). -/
def rxByte (k : Nat) (s : State) : Option Byte :=
  if k < s.cfg.bufCap then some (readByte s (rxBase + k)) else none

/-- `RXBUF[k] <- v`; none at an index outside the buffer (R52). -/
def rxStore (k : Nat) (v : Byte) (s : State) : Option State :=
  if k < s.cfg.bufCap then some (writeByte (rxBase + k) v s) else none

/-! ### The lines (R20, R65, R93) -/

/-- OUT[l] (R20). -/
def State.out (s : State) : Line → Drive
  | .scl => s.outScl
  | .sda => s.outSda

/-- `OUT[l] <- d` (R20). -/
def State.setOut (l : Line) (d : Drive) (s : State) : State :=
  match l with
  | .scl => { s with outScl := d }
  | .sda => { s with outSda := d }

/-- What the environment is still going to answer on line `l` (log 3). -/
def State.answers (s : State) : Line → List Level
  | .scl => s.sclIn
  | .sda => s.sdaIn

/-- The answers of line `l` become `vs`. -/
def State.setAnswers (l : Line) (vs : List Level) (s : State) : State :=
  match l with
  | .scl => { s with sclIn := vs }
  | .sda => { s with sdaIn := vs }

/-- The environment's answer to a sample of the released line `l`: the next of its script, or a free
level where the script has ended (R93, U11, log 3). -/
def draw (l : Line) (s : State) : Level × State :=
  match s.answers l with
  | v :: vs => (v, s.setAnswers l vs)
  | [] => (Config.freeLevel s.draws, { s with draws := s.draws + 1 })

/-- `sample(l)` (R92) by the open-drain resolution of R93: a line the engine drives is LOW
(PRESUMED by the spec itself, D3, log 13); a released one is as the environment answers. -/
def sample (l : Line) (s : State) : Level × State :=
  match s.out l with
  | .drivenLow => (.low, s)
  | .released => draw l s

/-- The pad's output enable `oe[l]` (R21). -/
def padOe (s : State) (l : Line) : Bool := decide (s.out l = .drivenLow)

/-- The pad's output level, "the constant 0" (R21). -/
def padLevel : Level := .low

/-- The bus is owned, as it shows at a command boundary (R35 (c)). -/
def ownsBus (s : State) : Bool := decide (s.outScl = .drivenLow)

/-! ### The micro-ops (R10) -/

/-- The condition of a `wait_until` (R96). -/
inductive WaitCond where
  /-- `level(SCL) = HIGH and level(SDA) = HIGH`. -/
  | bothHigh
  /-- `level(SCL) = HIGH`. -/
  | sclHigh
deriving DecidableEq, Repr

/-- One step of the engine (R10, R25); for a wait, one poll. -/
inductive MicroOp where
  | release (l : Line)
  | driveLow (l : Line)
  | sample (l : Line)
  | hold
  | wait (c : WaitCond)
deriving DecidableEq, Repr

/-- Both levels are HIGH. -/
def bothHigh (a b : Level) : Level :=
  match a, b with
  | .high, .high => .high
  | .high, .low => .low
  | .low, .high => .low
  | .low, .low => .low

/-- One poll: WAITCNT counts it, and the samples the condition needs are taken once each, SCL then SDA,
the second also when the first is LOW (R96). The answer is HIGH when every sample was. -/
def poll (c : WaitCond) (s : State) : Level × State :=
  let s1 := { s with waitcnt := s.waitcnt + 1 }
  match c with
  | .sclHigh => sample .scl s1
  | .bothHigh =>
    let r := sample .scl s1
    let q := sample .sda r.2
    (bothHigh r.1 q.1, q.2)

/-- What a micro-op does to the state, and what it observes: the sample's level, or HIGH for a poll
whose condition holds; a micro-op that reads no line observes nothing (HIGH stands there and is not
used). `hold()` changes no state (R95). -/
def perform (m : MicroOp) (s : State) : Level × State :=
  match m with
  | .release l => (.high, s.setOut l .released)
  | .driveLow l => (.high, s.setOut l .drivenLow)
  | .sample l => sample l s
  | .hold => (.high, s)
  | .wait c => poll c s

/-- `UPC <- u`. -/
def State.goto (u : Upc) (s : State) : State := { s with upc := u }

/-- `WAITCNT <- 0`, on reaching a `wait_until` (R96, R97). -/
def State.restartWait (s : State) : State := { s with waitcnt := 0 }

/-- The bound of R97 has been reached: WAIT_LIMIT = some n and WAITCNT >= n. -/
def waitExpired (s : State) : Bool :=
  match s.cfg.waitLimit with
  | none => false
  | some n => decide (n ≤ s.waitcnt)

/-! ### The course of an operation -/

/-- Where an operation stands after one of its micro-ops: at its place `p`, at its end with the value
it returns, or at a wait whose bound has been reached (R97). -/
inductive Flow (π ρ : Type) where
  | go (p : π)
  | done (x : ρ)
  | stuck
deriving DecidableEq, Repr

/-- After a poll (R25, R96): on when its condition held, else BUS_STUCK at the bound, else the
same wait again. -/
def afterPoll {π ρ : Type} (seen : Level) (s : State) (again : π) (on : Flow π ρ) :
    State × Flow π ρ :=
  match seen with
  | .high => (s, on)
  | .low => if waitExpired s then (s, .stuck) else (s, .go again)

/-! ### The beginning and the two ends of a command -/

/-- The normal end: "After the last micro-op of a command, UPC <- IDLE and BUSY <- 0" (R25); ERR was
set to OK at accept and is not written again (R176). -/
def endOk (s : State) : State := { s with busy := false, upc := .idle }

/-- `raise E`, the error end, the one shared way a command ends with an error (R176). It touches no
line and leaves all that was written before it. -/
def raise (e : ErrCode) (s : State) : State := { s with err := e, busy := false, upc := .idle }

/-- The accept of a word that is no legal command (R27, R72, R180): the error code and nothing else. -/
def illegalCommand (s : State) : State := { s with err := .illegalCmd }

/-- The accept of a legal command word, up to the command's own part: CMDR, ERR and BUSY (R27). -/
def loadCommand (i : Instr) (s : State) : State :=
  { s with cmdr := encode i, err := .ok, busy := true }

/-- Command accept (R27), one atomic step: `enter` puts UPC at the command's first micro-op and clears
its counter. R72 (d) is checked here. -/
def accept (i : Instr) (enter : State → State) (s : State) : Host.Outcome State Fault Refusal :=
  if i.wf s.cfg then .next (enter (loadCommand i s)) else .next (illegalCommand s)

/-- What a command does in one step: it is accepted when BUSY = 0, and runs its next micro-op when
BUSY = 1 (R25, R27, log 1). -/
def acceptOr (i : Instr) (enter : State → State)
    (run : State → Host.Outcome State Fault Refusal) (s : State) :
    Host.Outcome State Fault Refusal :=
  if s.busy then run s else accept i enter s

/-- The caller's part after one micro-op of an operation: stay in it at `place p`, go on with what it
returned, or end with BUS_STUCK (R176, R179). -/
def resume {π ρ : Type} (r : State × Flow π ρ) (place : π → Upc)
    (andThen : ρ → State → Host.Outcome State Fault Refusal) :
    Host.Outcome State Fault Refusal :=
  match r.2 with
  | .go p => .next (r.1.goto (place p))
  | .done x => andThen x r.1
  | .stuck => .next (raise .busStuck r.1)

end Sys2Proof.Machine
end

