-- ==== Sys2Proof/Machine/Operands.lean ====
section
/-! DEFINITION. The operands the operations work on: the address byte (R140), the bit of a level (R9,
R126), the bit of a byte (R120), the acknowledge of a read byte (R147). -/

namespace Sys2Proof.Machine

/-- A direction as the bit rw: false is write = 0, true is read = 1 (R7). -/
def directionBit (isRead : Bool) : Byte := if isRead then 1 else 0

/-- `addr_byte(A, rw) = ((A << 1) | rw) mod 256` (R140). -/
def addrByte (address : BitVec 7) (isRead : Bool) : Byte :=
  (address.setWidth 8 <<< 1) ||| directionBit isRead

/-- `bit(HIGH) = 1`, `bit(LOW) = 0` (R126). -/
def levelBit (v : Level) : Bool :=
  match v with
  | .high => true
  | .low => false

/-- `ACC <- ((ACC << 1) | bit(v)) mod 256` (R125, R126). -/
def shiftIn (acc : Byte) (v : Level) : Byte :=
  (acc <<< 1) ||| (if levelBit v then 1 else 0)

/-- `b[i]` for the bit loop position i (R120). -/
def bitAt (b : Byte) (i : BitVec 4) : Bool := b.getLsbD i.toNat

/-- "release for 1, drive-low for 0" (R120, B1). -/
def dataBitOp (bit : Bool) : MicroOp := if bit then .release .sda else .driveLow .sda

/-- The acknowledge after byte k of c: ACK all but the last (R145, R147). -/
def ackAfter (k : Nat) (c : Byte) : Bool := decide (k + 1 < c.toNat)

/-- Byte k is not the last of n (R141, R145): "k = N - 1" is the last. -/
def moreAfter (k n : Byte) : Bool := decide (k.toNat + 1 < n.toNat)

end Sys2Proof.Machine
end

