-- ==== Sys2Proof/Machine/Flags.lean ====
section
/-! DEFINITION. The flags of STATUS (R28) and the register's bits (R31, R175). -/

namespace Sys2Proof.Machine

/-- The numeric error code (R175). -/
def ErrCode.code : ErrCode → BitVec 3
  | .ok => 0
  | .noAckAddress => 1
  | .noAckData => 2
  | .busStuck => 3
  | .illegalCmd => 4

/-- "a LOW reading means the slave acknowledged" (R120, A4). -/
def ackOf (v : Level) : Bool :=
  match v with
  | .low => true
  | .high => false

/-- `ACK <- ack` (R28, R120): every send_byte, and nothing else, writes it. -/
def State.setAck (ack : Bool) (s : State) : State := { s with ack := ack }

/-- `LVL <- 1 if v = HIGH else 0` (R94): READ_LINE, and nothing else, writes it. -/
def State.setLvl (v : Level) (s : State) : State := { s with lvl := levelBit v }

/-- STATUS (R31): reserved bits 7:6 are 0, then ERR, LVL, ACK, BUSY. -/
def statusByte (s : State) : Byte :=
  (0#2) ++ s.err.code ++ BitVec.ofBool s.lvl ++ BitVec.ofBool s.ack ++ BitVec.ofBool s.busy

end Sys2Proof.Machine
end

