-- ==== Sys2Proof/Machine/ByteTransceiver.lean ====
section
/-! DEFINITION. The Byte Transceiver: `send_byte(b)` (R120, R122, R123), `receive_byte(a)` (R125, R126,
R128) and the commands SEND_BYTE (R121) and RECEIVE_BYTE (R127). -/

namespace Sys2Proof.Machine

/-- The micro-ops of `send_byte`, `bit` being the data bit b[BITCNT] (R120). -/
def SendPos.microOp (bit : Bool) : SendPos → MicroOp
  | .b1 => dataBitOp bit
  | .b2 => .hold
  | .b3 => .release .scl
  | .b4 => .hold
  | .b5 => .driveLow .scl
  | .a1 => .release .sda
  | .a2 => .release .scl
  | .a3 => .wait .sclHigh
  | .a4 => .sample .sda
  | .a5 _ => .driveLow .scl

/-- The end of a data bit: the next lower bit, or after bit 0 the acknowledge phase (R120). -/
def nextSendBit (s : State) : State × Flow SendPos Bool :=
  if s.bitcnt = 0 then (s, .go .a1) else ({ s with bitcnt := s.bitcnt - 1 }, .go .b1)

/-- One micro-op of `send_byte(b)` and where it leads (R120). -/
def sendStep (b : Byte) (p : SendPos) (s : State) : State × Flow SendPos Bool :=
  let r := perform (p.microOp (bitAt b s.bitcnt)) s
  match p with
  | .b1 => (r.2, .go .b2)
  | .b2 => (r.2, .go .b3)
  | .b3 => (r.2, .go .b4)
  | .b4 => (r.2, .go .b5)
  | .b5 => nextSendBit r.2
  | .a1 => (r.2, .go .a2)
  | .a2 => (r.2.restartWait, .go .a3)
  | .a3 => afterPoll r.1 r.2 .a3 (.go .a4)
  | .a4 => (r.2.setAck (ackOf r.1), .go (.a5 (ackOf r.1)))
  | .a5 ack => (r.2, .done ack)

/-- `call send_byte(b)`: UPC at B1 of bit 7 (R120). -/
def enterSend (site : SendSite) (b : Byte) (s : State) : State :=
  { s with bitcnt := 7, upc := .send site b .b1 }

/-- The micro-ops of `receive_byte` (R125). -/
def RecvPos.microOp : RecvPos → MicroOp
  | .c0 => .release .sda
  | .c1 => .release .scl
  | .c2 => .hold
  | .c3 => .sample .sda
  | .c4 => .driveLow .scl
  | .c5 => .hold
  | .k1 => .driveLow .sda
  | .k2 => .hold
  | .k3 => .release .scl
  | .k4 => .hold
  | .k5 => .driveLow .scl
  | .k6 => .hold
  | .k7 => .release .sda

/-- The end of a received bit: the next lower bit, or after bit 0 the acknowledge phase, which begins
at K1 for an ACK and at K2 for a NAK (R125). -/
def nextRecvBit (a : Bool) (s : State) : State × Flow RecvPos Byte :=
  if s.bitcnt = 0 then (s, .go (if a then .k1 else .k2))
  else ({ s with bitcnt := s.bitcnt - 1 }, .go .c1)

/-- One micro-op of `receive_byte(a)` and where it leads (R125). -/
def recvStep (a : Bool) (p : RecvPos) (s : State) : State × Flow RecvPos Byte :=
  let r := perform p.microOp s
  match p with
  | .c0 => ({ r.2 with acc := 0, bitcnt := 7 }, .go .c1)
  | .c1 => (r.2, .go .c2)
  | .c2 => (r.2, .go .c3)
  | .c3 => ({ r.2 with acc := shiftIn r.2.acc r.1 }, .go .c4)
  | .c4 => (r.2, .go .c5)
  | .c5 => nextRecvBit a r.2
  | .k1 => (r.2, .go .k2)
  | .k2 => (r.2, .go .k3)
  | .k3 => (r.2, .go .k4)
  | .k4 => (r.2, .go .k5)
  | .k5 => (r.2, .go .k6)
  | .k6 => (r.2, .go .k7)
  | .k7 => ({ r.2 with data := r.2.acc }, .done r.2.acc)

/-- `call receive_byte(a)`: UPC at C0 (R125). -/
def enterRecv (a : Bool) (s : State) : State := s.goto (.recv a .c0)

/-- SEND_BYTE while it runs (R121): the acknowledge is the flag ACK and no error. -/
def runSendByte (s : State) : Host.Outcome State Fault Refusal :=
  match s.upc with
  | .send .operand b p => resume (sendStep b p s) (.send .operand b) (fun _ t => .next (endOk t))
  | _ => .fault .outsideProgram

/-- SEND_BYTE byte (R121): `call send_byte(N)`. -/
def execSendByte (byte : Byte) (s : State) : Host.Outcome State Fault Refusal :=
  acceptOr (.sendByte byte) (enterSend .operand byte) runSendByte s

/-- RECEIVE_BYTE while it runs (R127). -/
def runReceiveByte (s : State) : Host.Outcome State Fault Refusal :=
  match s.upc with
  | .recv a p => resume (recvStep a p s) (.recv a) (fun _ t => .next (endOk t))
  | _ => .fault .outsideProgram

/-- RECEIVE_BYTE ack (R127): `call receive_byte(F)`. -/
def execReceiveByte (ack : Bool) (s : State) : Host.Outcome State Fault Refusal :=
  acceptOr (.receiveByte ack) (enterRecv ack) runReceiveByte s

end Sys2Proof.Machine
end

