-- ==== Sys2Proof/Machine/ConditionGenerator.lean ====
section
/-! DEFINITION. The Condition Generator: `start()` (R105, R110, R111), `stop()` (R107, R108, R113) and
the commands START (R106) and STOP (R109). -/

namespace Sys2Proof.Machine

/-- The micro-ops of `start()` (R105). -/
def StartPos.microOp : StartPos → MicroOp
  | .s1 => .release .sda
  | .s2 => .release .scl
  | .s3 => .wait .bothHigh
  | .s4 => .driveLow .sda
  | .s5 => .hold
  | .s6 => .driveLow .scl
  | .s7 => .hold

/-- One micro-op of `start()` and where it leads (R105). -/
def startStep (p : StartPos) (s : State) : State × Flow StartPos Unit :=
  let r := perform p.microOp s
  match p with
  | .s1 => (r.2, .go .s2)
  | .s2 => (r.2.restartWait, .go .s3)
  | .s3 => afterPoll r.1 r.2 .s3 (.go .s4)
  | .s4 => (r.2, .go .s5)
  | .s5 => (r.2, .go .s6)
  | .s6 => (r.2, .go .s7)
  | .s7 => (r.2, .done ())

/-- `call start()`: UPC at S1. -/
def enterStart (s : State) : State := s.goto (.start .s1)

/-- The micro-ops of `stop()` (R107). -/
def StopPos.microOp : StopPos → MicroOp
  | .p0 => .driveLow .sda
  | .p1 => .release .scl
  | .p2 => .hold
  | .p3 => .release .sda
  | .p4 => .hold
  | .p5 => .wait .bothHigh

/-- One micro-op of `stop()` and where it leads (R107). -/
def stopStep (p : StopPos) (s : State) : State × Flow StopPos Unit :=
  let r := perform p.microOp s
  match p with
  | .p0 => (r.2, .go .p1)
  | .p1 => (r.2, .go .p2)
  | .p2 => (r.2, .go .p3)
  | .p3 => (r.2, .go .p4)
  | .p4 => (r.2.restartWait, .go .p5)
  | .p5 => afterPoll r.1 r.2 .p5 (.done ())

/-- The first place of `stop()`: P0 if P_STOP_PREDRIVE, else P1 (R107, R113). -/
def stopEntry (p : Params) : StopPos := if p.stopPredrive then .p0 else .p1

/-- `call stop()`, with what follows it. -/
def enterStop (after : Closing) (s : State) : State := s.goto (.stop after (stopEntry s.cfg))

/-- What follows a `stop()`: the normal end, or the raise after a NAK (R141, R145, R177, R178). -/
def conclude (after : Closing) (s : State) : State :=
  match after with
  | .success => endOk s
  | .nakAddress => raise .noAckAddress s
  | .nakData => raise .noAckData s

/-- One micro-op of a `stop()` and, at its end, what follows it. -/
def stopThenConclude (after : Closing) (p : StopPos) (s : State) :
    Host.Outcome State Fault Refusal :=
  resume (stopStep p s) (.stop after) (fun _ t => .next (conclude after t))

/-- START while it runs (R106). -/
def runStart (s : State) : Host.Outcome State Fault Refusal :=
  match s.upc with
  | .start p => resume (startStep p s) .start (fun _ t => .next (endOk t))
  | _ => .fault .outsideProgram

/-- START (R106): `call start()`. -/
def execStart (s : State) : Host.Outcome State Fault Refusal :=
  acceptOr .start enterStart runStart s

/-- STOP while it runs (R109). -/
def runStop (s : State) : Host.Outcome State Fault Refusal :=
  match s.upc with
  | .stop .success p => stopThenConclude .success p s
  | _ => .fault .outsideProgram

/-- STOP (R109): `call stop()`. -/
def execStop (s : State) : Host.Outcome State Fault Refusal :=
  acceptOr .stop (enterStop .success) runStop s

end Sys2Proof.Machine
end

