-- ==== Sys2Proof/Machine/LineDriver.lean ====
section
/-! DEFINITION. The three line-driver commands (R94, R98, R99): one micro-op each. -/

namespace Sys2Proof.Machine

/-- UPC at the one micro-op of a line-driver command. -/
def enterLine (s : State) : State := s.goto .line

/-- The one micro-op `m` of a line-driver command, `record` what it observed, and the end (R25). -/
def lineStep (m : MicroOp) (record : Level → State → State) (s : State) :
    Host.Outcome State Fault Refusal :=
  match s.upc with
  | .line => .next (endOk (record (perform m s).1 (perform m s).2))
  | _ => .fault .outsideProgram

/-- RELEASE line (R98): `release(LINE)`. -/
def execRelease (line : Line) (s : State) : Host.Outcome State Fault Refusal :=
  acceptOr (.release line) enterLine (lineStep (.release line) (fun _ t => t)) s

/-- DRIVE_LOW line (R99): `drive_low(LINE)`. -/
def execDriveLow (line : Line) (s : State) : Host.Outcome State Fault Refusal :=
  acceptOr (.driveLow line) enterLine (lineStep (.driveLow line) (fun _ t => t)) s

/-- READ_LINE line (R94): `v <- sample(LINE)`, `LVL <- v`. -/
def execReadLine (line : Line) (s : State) : Host.Outcome State Fault Refusal :=
  acceptOr (.readLine line) enterLine (lineStep (.sample line) (fun v t => t.setLvl v)) s

end Sys2Proof.Machine
end

