-- ==== Sys2Proof/Machine/TransactionSequencer.lean ====
section
/-! DEFINITION. The Transaction Sequencer: `write` (R141, R143, R144), `read` (R145, R147, R148, R149)
and the commands WRITE (R142) and READ (R146). -/

namespace Sys2Proof.Machine

/-! ### WRITE -/

/-- `call send_byte(TXBUF[k])` with IDX = k: the byte is read now, when it is about to be sent (R63). -/
def enterDataByte (k : Byte) (s : State) : Host.Outcome State Fault Refusal :=
  match txByte k.toNat s with
  | some b => .next (enterSend .data b { s with idx := k })
  | none => .fault .outsideBuffer

/-- After the address byte of a WRITE: the first data byte, or `stop()` and NO_ACK_ADDRESS (R141). -/
def writeAfterAddress (ack : Bool) (s : State) : Host.Outcome State Fault Refusal :=
  if ack then enterDataByte 0 s else .next (enterStop .nakAddress s)

/-- After data byte k = IDX of a WRITE of n bytes: NWRITTEN, then the next byte or the final `stop()`;
on a NAK `stop()` and NO_ACK_DATA, NWRITTEN staying k (R141). -/
def writeAfterData (n : Byte) (ack : Bool) (s : State) : Host.Outcome State Fault Refusal :=
  if ack then
    if moreAfter s.idx n then enterDataByte (s.idx + 1) { s with nwritten := s.idx + 1 }
    else .next (enterStop .success { s with nwritten := s.idx + 1 })
  else .next (enterStop .nakData s)

/-- The accept's own part of a WRITE: NWRITTEN <- 0, then S1, or the end if n = 0 (R27, R143). -/
def enterWrite (n : Byte) (s : State) : State :=
  if n = 0 then endOk { s with nwritten := 0 } else enterStart { s with nwritten := 0 }

/-- WRITE while it runs (R141). -/
def runWrite (address : BitVec 7) (n : Byte) (s : State) : Host.Outcome State Fault Refusal :=
  match s.upc with
  | .start p => resume (startStep p s) .start
      (fun _ t => .next (enterSend .address (addrByte address false) t))
  | .send .address b p => resume (sendStep b p s) (.send .address b) writeAfterAddress
  | .send .data b p => resume (sendStep b p s) (.send .data b) (writeAfterData n)
  | .stop after p => stopThenConclude after p s
  | _ => .fault .outsideProgram

/-- WRITE address, len (R142). -/
def execWrite (address : BitVec 7) (len : Byte) (s : State) : Host.Outcome State Fault Refusal :=
  acceptOr (.write address len) (enterWrite len) (runWrite address len) s

/-! ### READ -/

/-- `call receive_byte(a)` for byte k = IDX of c (R145). -/
def enterReadByte (k c : Byte) (s : State) : State :=
  enterRecv (ackAfter k.toNat c) { s with idx := k }

/-- After the address byte of a READ: the first byte, or `stop()`, whatever NOSTOP is, and
NO_ACK_ADDRESS (R145, R148). -/
def readAfterAddress (c : Byte) (ack : Bool) (s : State) : Host.Outcome State Fault Refusal :=
  if ack then .next (enterReadByte 0 c s) else .next (enterStop .nakAddress s)

/-- After byte k = IDX of a READ of c bytes: RXBUF[k] and NREAD, then the next byte, or the final
`stop()`, or with NOSTOP the end (R145, R148). -/
def readAfterByte (c : Byte) (nostop : Bool) (v : Byte) (s : State) :
    Host.Outcome State Fault Refusal :=
  match rxStore s.idx.toNat v s with
  | none => .fault .outsideBuffer
  | some t =>
    if moreAfter t.idx c then .next (enterReadByte (t.idx + 1) c { t with nread := t.idx + 1 })
    else if nostop then .next (endOk { t with nread := t.idx + 1 })
    else .next (enterStop .success { t with nread := t.idx + 1 })

/-- The accept's own part of a READ: NREAD <- 0, then S1, or the end if c = 0 (R27, R143). -/
def enterRead (c : Byte) (s : State) : State :=
  if c = 0 then endOk { s with nread := 0 } else enterStart { s with nread := 0 }

/-- READ while it runs (R145). It calls `stop()` after its last byte or after a NAK of the address; the
`stop()` of a data byte's NAK is no place of its pseudocode (log 17). -/
def runRead (address : BitVec 7) (c : Byte) (nostop : Bool) (s : State) :
    Host.Outcome State Fault Refusal :=
  match s.upc with
  | .start p => resume (startStep p s) .start
      (fun _ t => .next (enterSend .address (addrByte address true) t))
  | .send .address b p => resume (sendStep b p s) (.send .address b) (readAfterAddress c)
  | .recv a p => resume (recvStep a p s) (.recv a) (readAfterByte c nostop)
  | .stop .success p => stopThenConclude .success p s
  | .stop .nakAddress p => stopThenConclude .nakAddress p s
  | _ => .fault .outsideProgram

/-- READ address, count [, NOSTOP] (R146). -/
def execRead (address : BitVec 7) (count : Byte) (nostop : Bool) (s : State) :
    Host.Outcome State Fault Refusal :=
  acceptOr (.read address count nostop) (enterRead count) (runRead address count nostop) s

end Sys2Proof.Machine
end

