-- ==== Sys2Proof/Machine/Dispatch.lean ====
section
/-! DEFINITION. One step of a command (R25, R27): the accept while BUSY = 0, its next micro-op while
BUSY = 1. -/

namespace Sys2Proof.Machine

def exec (i : Instr) (s : State) : Host.Outcome State Fault Refusal :=
  match i with
  | .release line => Sys2Proof.Machine.execRelease line s
  | .driveLow line => Sys2Proof.Machine.execDriveLow line s
  | .readLine line => Sys2Proof.Machine.execReadLine line s
  | .start => Sys2Proof.Machine.execStart s
  | .stop => Sys2Proof.Machine.execStop s
  | .sendByte byte => Sys2Proof.Machine.execSendByte byte s
  | .receiveByte ack => Sys2Proof.Machine.execReceiveByte ack s
  | .write address len => Sys2Proof.Machine.execWrite address len s
  | .read address count nostop => Sys2Proof.Machine.execRead address count nostop s

end Sys2Proof.Machine
end

