-- ==== Sys2Proof/Machine/HostPort.lean ====
section
/-! DEFINITION. The host register space (R29, R56, R57), the issue of a command (R27, R30), reset (R40),
the building of a block (R181), and which of the agents moves next (R13, log 2). -/

namespace Sys2Proof.Machine

/-! ### The host registers (R29) -/

/-- Register number `n` lies in the TXBUF window (R29). -/
def inTxWindow (p : Params) (n : Nat) : Bool := decide (txBase ≤ n ∧ n < txBase + p.bufCap)

/-- Register number `n` lies in the RXBUF window (R29). -/
def inRxWindow (p : Params) (n : Nat) : Bool := decide (rxBase ≤ n ∧ n < rxBase + p.bufCap)

/-- What a host read of register number `n` returns (R29, R56). An 8-bit register is zero-extended to
the port's 32 bits (log 16). CMD and an unmapped number read 0. -/
def hostRead (s : State) (n : Nat) : Word :=
  if n = 1 then (statusByte s).setWidth 32
  else if n = 2 then s.data.setWidth 32
  else if n = 3 then s.nwritten.setWidth 32
  else if n = 4 then s.nread.setWidth 32
  else if inTxWindow s.cfg n || inRxWindow s.cfg n then (readByte s n).setWidth 32
  else 0

/-- The host issues command word `w` (R27): dropped while BUSY = 1; a word that is no command sets
ILLEGAL_CMD and nothing else. -/
def issue (w : Word) (s : State) : Host.Outcome State Fault Refusal :=
  if s.busy then .next s
  else match decode w with
    | .ok i => exec i s
    | .error _ => .next (illegalCommand s)

/-- A host write of `v` to register number `n` (R29, R30, R50, R56). A TXBUF register takes the low 8
bits (log 16). -/
def hostWrite (n : Nat) (v : Word) (s : State) : Host.Outcome State Fault Refusal :=
  if n = 0 then issue v s
  else if inTxWindow s.cfg n && !s.busy then .next (writeByte n (v.setWidth 8) s)
  else .next s

/-! ### Reset and construction -/

/-- Reset (R40): the state of R40 with the parameters kept; the other agents and the count of free
levels are no part of the block and go on. The buffers' contents are unspecified anew: `epoch`
(log 4, log 21). -/
def resetBlock (s : State) : State :=
  { State.initial s.cfg with
    host := s.host, sclIn := s.sclIn, sdaIn := s.sdaIn, draws := s.draws, epoch := s.epoch + 1 }

/-- A block is built from parameters that meet R6 and refused otherwise (R6, R181). -/
def State.build (p : Params) : Host.Outcome State Fault Refusal :=
  match p.problem with
  | none => .next (State.initial p)
  | some e => .refused (.configuration e)

/-! ### Who moves next (log 2) -/

/-- The engine's step: the next micro-op of the command in CMDR while BUSY = 1 (R25); an idle engine
does nothing (R40, R194). -/
def engineStep (s : State) : Host.Outcome State Fault Refusal :=
  if s.busy then
    match decode s.cmdr with
    | .ok i => exec i s
    | .error _ => .fault .noCommand
  else .next s

/-- One step of the whole: the host's next action if it has one, else the engine's step. A read has no
side effect (R29, R56); its value is `hostRead`. -/
def advance (s : State) : Host.Outcome State Fault Refusal :=
  match s.host with
  | [] => engineStep s
  | .wait :: rest => engineStep { s with host := rest }
  | .write n v :: rest => hostWrite n v { s with host := rest }
  | .read _ :: rest => .next { s with host := rest }
  | .reset :: rest => .next (resetBlock { s with host := rest })

/-- `s` with an idle engine whose host issues command word `w` next (log 8). -/
def placeCommand (w : Word) (s : State) : State :=
  { s with busy := false, upc := .idle, host := .write 0 w :: s.host }

end Sys2Proof.Machine
end

