-- ==== Sys2Proof/Machine/Step.lean ====
section
/-! DEFINITION. The step of the machine (R25, R27) and the placing of a command where the next step
takes it. -/

namespace Sys2Proof.Machine

/-- One step: a host action, or a micro-op of the engine (R25, log 2). -/
def step (s : State) : Host.Outcome State Fault Refusal := advance s

/-- `s` with the command word `w`, the bits above `nbits` being 0, issued by the host in the very next
step (log 8). -/
def State.withFetchWord (s : State) (nbits w : Nat) : State :=
  placeCommand (BitVec.ofNat 32 (w % 2 ^ nbits)) s

end Sys2Proof.Machine
end

