-- ==== Sys2Proof/Machine/Facade.lean ====
section
/-! DEFINITION. Host-side software over the block: a host call (place its accesses, wait for BUSY = 0), the
call-level API (R78, R80) and the annex's Receive Buffer Facade (R165 to R170). It stands outside the
block: no part of State, no command of its own. Each call is made of steps of the machine. -/

namespace Sys2Proof.Machine

/-! ### A call: accesses, then the wait for BUSY = 0 (R80, R166, R190) -/

/-- The host takes its actions `acts` next, one a step. -/
def hostTakes : List HostAction → State → Host.Outcome State Fault Refusal
  | [], s => .next s
  | a :: acts, s =>
    match step { s with host := a :: s.host } with
    | .next t => hostTakes acts t
    | .fault f => .fault f
    | .refused r => .refused r

/-- "wait for BUSY = 0": the engine's steps while the host waits, until BUSY falls. The wait has no bound
(R196); the number `patience` only cuts the evaluation short, and the state then still has BUSY = 1
(log 26). -/
def awaitIdle : Nat → State → Host.Outcome State Fault Refusal
  | 0, s => .next s
  | patience + 1, s =>
    if s.busy then
      match step { s with host := .wait :: s.host } with
      | .next t => awaitIdle patience t
      | .fault f => .fault f
      | .refused r => .refused r
    else .next s

/-- A whole call: its accesses, the wait, and the result read off the state after it; no result while
BUSY = 1. That a host makes one call at a time is the host's business (R204). -/
def hostCall {α : Type} (acts : List HostAction) (patience : Nat) (result : State → Option α)
    (s : State) : Host.Outcome (Option α × State) Fault Refusal :=
  match hostTakes acts s with
  | .next t =>
    match awaitIdle patience t with
    | .next u => .next (result u, u)
    | .fault f => .fault f
    | .refused r => .refused r
  | .fault f => .fault f
  | .refused r => .refused r

/-- The access that issues command `i` (R27). -/
def issueAction (i : Instr) : HostAction := .write 0 (encode i)

/-- A result that exists only once BUSY = 0 (R62, R80). -/
def onceIdle {α : Type} (result : State → α) (s : State) : Option α :=
  if s.busy then none else some (result s)

/-! ### The call-level API (R80) and the pseudo-command (R78) -/

/-- The host writes of `TXBUF = [b0, b1, ...]`, from index `k` on (R77). -/
def writeTxBytes : Nat → List Byte → List HostAction
  | _, [] => []
  | k, b :: bs => .write (txBase + k) (b.setWidth 32) :: writeTxBytes (k + 1) bs

/-- The host actions of `write(address, data)` up to the issue of the command; none for `data` longer
than BUF_CAP, which "cannot be sent as one command" (R80, R7). -/
def callWrite (p : Params) (address : BitVec 7) (data : List Byte) : Option (List HostAction) :=
  if data.length ≤ p.bufCap ∧ data.length ≤ 255 then
    some (writeTxBytes 0 data ++ [issueAction (.write address (BitVec.ofNat 8 data.length))])
  else none

/-- What `write` reports: success for OK, and NO_ACK_ADDRESS and NO_ACK_DATA as the errors of the same
names (R80); nothing while BUSY = 1. DESIGN CHOICE (log 26): R80 does not say what it reports for
BUS_STUCK and ILLEGAL_CMD; the model reports them as errors of the same names too. -/
def writeResult : State → Option (Except ErrCode Unit) :=
  onceIdle (fun s => if s.err = .ok then .ok () else .error s.err)

/-- The call `write(address, data)` (R80); none where the data cannot be sent as one command. -/
def apiWrite (address : BitVec 7) (data : List Byte) (patience : Nat) (s : State) :
    Option (Host.Outcome (Option (Except ErrCode Unit) × State) Fault Refusal) :=
  (callWrite s.cfg address data).map (fun acts => hostCall acts patience writeResult s)

/-- `RXBUF[0..NREAD-1]` (R80). -/
def receivedBytes (s : State) : List Byte :=
  (List.range s.nread.toNat).map (fun k => readByte s (rxBase + k))

/-- What `read` reports: the bytes and their number, with the error code beside them (R80, R149); nothing
while BUSY = 1. DESIGN CHOICE (log 26): R80 names the bytes and the number only; the model adds ERR,
whatever it is, and changes neither for it. -/
def readResult : State → Option (ErrCode × List Byte × Nat) :=
  onceIdle (fun s => (s.err, receivedBytes s, s.nread.toNat))

/-- The call `read(address, count)` (R80): `READ address, count`, with the STOP. -/
def apiRead (address : BitVec 7) (count : Byte) (patience : Nat) (s : State) :
    Host.Outcome (Option (ErrCode × List Byte × Nat) × State) Fault Refusal :=
  hostCall [issueAction (.read address count false)] patience readResult s

/-- The second half of WRITE_THEN_READ: the READ, once BUSY has fallen and if ERR = OK (R78, R152). -/
def writeThenReadSecond (address : BitVec 7) (count : Byte) (s : State) : Option Word :=
  if s.busy = false ∧ s.err = .ok then some (encode (.read address count false)) else none

/-! ### The facade (R165 to R168) -/

/-- The facade's state (R165). -/
structure Facade where
  buf : List Byte
  length : Nat
  cursor : Nat
deriving DecidableEq, Repr

/-- `buf` is FACADE_CAP bytes, and "cursor ≤ length ≤ capacity" (R165). -/
abbrev Facade.wf (p : Params) (f : Facade) : Prop :=
  f.buf.length = p.facadeCap ∧ f.cursor ≤ f.length ∧ f.length ≤ p.facadeCap

/-- Before the first request: FACADE_CAP bytes, length and cursor 0 (R165, D31). DESIGN CHOICE (log 27):
the spec says nothing of what the bytes are then; each is a free value. -/
def Facade.initial (p : Params) : Facade :=
  { buf := (List.range p.facadeCap).map Config.facadeByte, length := 0, cursor := 0 }

/-- The READ that `request(address, count, send_stop)` issues, the count clamped (R166). -/
def requestCommand (p : Params) (address : BitVec 7) (count : Byte) (sendStop : Bool) : Instr :=
  .read address (BitVec.ofNat 8 (min count.toNat p.facadeCap)) (!sendStop)

/-- The facade after a request, once BUSY = 0 (R166): the first NREAD bytes of `buf` are those of RXBUF,
the others stay. -/
def requestDone (f : Facade) : State → Option Facade :=
  onceIdle (fun s =>
    { buf := receivedBytes s ++ f.buf.drop s.nread.toNat, length := s.nread.toNat, cursor := 0 })

/-- The call `request(address, count, send_stop)` (R166): the READ, the wait, the copy. -/
def request (address : BitVec 7) (count : Byte) (sendStop : Bool) (patience : Nat) (f : Facade)
    (s : State) : Host.Outcome (Option Facade × State) Fault Refusal :=
  hostCall [issueAction (requestCommand s.cfg address count sendStop)] patience (requestDone f) s

/-- `available()` (R167). -/
def Facade.available (f : Facade) : Nat := f.length - f.cursor

/-- `read_next()` (R168): the next byte, or EMPTY_SENTINEL with nothing changed. (A cursor below `length`
has its byte wherever `Facade.wf` holds.) -/
def Facade.readNext (p : Params) (f : Facade) : FacadeResult × Facade :=
  if f.cursor < f.length then
    match f.buf[f.cursor]? with
    | some v => (.byte v, { f with cursor := f.cursor + 1 })
    | none => (p.emptySentinel, f)
  else (p.emptySentinel, f)

end Sys2Proof.Machine
end

