-- ==== Sys2Proof/Machine/Trace.lean ====
section
/-! DEFINITION. What a run shows: the events its micro-ops leave (R12), runs of one command and of the
machine, and the lower bound on a trace's duration (R95, R215). None of it is state of the hardware
(R12). -/

namespace Sys2Proof.Machine

/-- The events of R12. -/
inductive Event where
  | rel (l : Line)
  | low (l : Line)
  | smp (l : Line) (v : Level)
  | hold
deriving DecidableEq, Repr

/-- The events micro-op `m` leaves when the engine takes it in `s`; a poll leaves the samples it takes,
SCL then SDA (R12, R96). -/
def MicroOp.events (m : MicroOp) (s : State) : List Event :=
  match m with
  | .release l => [.rel l]
  | .driveLow l => [.low l]
  | .sample l => [.smp l (Machine.sample l s).1]
  | .hold => [.hold]
  | .wait .sclHigh => [.smp .scl (Machine.sample .scl s).1]
  | .wait .bothHigh =>
    let r := Machine.sample .scl s
    [.smp .scl r.1, .smp .sda (Machine.sample .sda r.2).1]

/-- The micro-op of the line-driver commands (R94, R98, R99). -/
def lineMicroOp : Instr → Option MicroOp
  | .release l => some (.release l)
  | .driveLow l => some (.driveLow l)
  | .readLine l => some (.sample l)
  | .start => none
  | .stop => none
  | .sendByte _ => none
  | .receiveByte _ => none
  | .write _ _ => none
  | .read _ _ _ => none

/-- The micro-op at UPC while command `i` runs (R24, R25). -/
def microOpOf (i : Instr) (s : State) : Option MicroOp :=
  match s.upc with
  | .idle => none
  | .line => lineMicroOp i
  | .start p => some p.microOp
  | .stop _ p => some p.microOp
  | .send _ b p => some (p.microOp (bitAt b s.bitcnt))
  | .recv _ p => some p.microOp

/-- The events of one step of command `i` in `s`: an accept touches no line (R27). -/
def execEvents (i : Instr) (s : State) : List Event :=
  if s.busy then
    match microOpOf i s with
    | some m => m.events s
    | none => []
  else []

/-- `k` steps of command `i`: its accept, if the engine is idle, and then its micro-ops. -/
def execMany (i : Instr) : Nat → State → Host.Outcome State Fault Refusal
  | 0, s => .next s
  | k + 1, s =>
    match exec i s with
    | .next t => execMany i k t
    | .fault f => .fault f
    | .refused r => .refused r

/-- The trace of `k` steps of command `i`. -/
def execTrace (i : Instr) : Nat → State → List Event
  | 0, _ => []
  | k + 1, s =>
    execEvents i s ++
      match exec i s with
      | .next t => execTrace i k t
      | .fault _ => []
      | .refused _ => []

/-- The engine is the agent that moves in the next step (log 2). -/
def engineMoves (s : State) : Bool :=
  match s.host with
  | [] => true
  | .wait :: _ => true
  | .write _ _ :: _ => false
  | .read _ :: _ => false
  | .reset :: _ => false

/-- The events of the machine's next step. -/
def stepEvents (s : State) : List Event :=
  if engineMoves s then
    match decode s.cmdr with
    | .ok i => execEvents i s
    | .error _ => []
  else []

/-- The trace of `k` steps of the machine, whatever commands the host issues in them (R12): the events of
the steps in order, up to the first that has no next state. -/
def runTrace : Nat → State → List Event
  | 0, _ => []
  | k + 1, s =>
    stepEvents s ++
      match step s with
      | .next t => runTrace k t
      | .fault _ => []
      | .refused _ => []

/-- The least time the holds of a trace take, in the unit of T_BIT (R95, R216): nothing else has a
stated duration (R215). -/
def minDuration (p : Params) (tr : List Event) : Nat := tr.count .hold * p.tBit

end Sys2Proof.Machine
end

