-- ==== Sys2Proof/Machine/Wire.lean ====
section
/-! DEFINITION. The wire observer of the test-vector file (95 section 1): what "the sequence observed on
the wire" is, computed from a trace. A fixture of the spec, not hardware. -/

namespace Sys2Proof.Machine

/-- What the observer writes down: START, STOP, a byte, its acknowledge (A) or not (N). -/
inductive Symbol where
  | start
  | stop
  | byte (b : Byte)
  | ack
  | nak
deriving DecidableEq, Repr

/-- The observer's own state: the engine's two drives as the events tell them, the pulse that is open,
whether an edge fell in it, the data level sampled in it, the bits collected, the symbols so far. -/
structure Observer where
  scl : Drive
  sda : Drive
  inPulse : Bool
  edge : Bool
  seen : Option Level
  bits : List Bool
  symbols : List Symbol
deriving DecidableEq, Repr

/-- The byte of the first eight bits, most significant first. -/
def byteOfBits (bits : List Bool) : Byte :=
  bits.foldl (fun a b => (a <<< 1) ||| (if b then 1 else 0)) 0

/-- One more bit: the eighth emits the byte, the ninth the acknowledge. -/
def Observer.takeBit (b : Bool) (o : Observer) : Observer :=
  if o.bits.length = 7 then
    { o with bits := o.bits ++ [b], symbols := o.symbols ++ [.byte (byteOfBits (o.bits ++ [b]))] }
  else if o.bits.length = 8 then
    { o with bits := [], symbols := o.symbols ++ [if b then .nak else .ack] }
  else { o with bits := o.bits ++ [b] }

/-- An edge of the data line while the clock is released: a START or STOP condition. -/
def Observer.condition (c : Symbol) (o : Observer) : Observer :=
  { o with edge := true, bits := [], symbols := o.symbols ++ [c] }

/-- The bit of the pulse that closes. -/
def Observer.pulseBit (o : Observer) : Bool :=
  if o.sda = .drivenLow then false
  else match o.seen with
    | some v => levelBit v
    | none => true

/-- The observer over one event. -/
def Observer.see (o : Observer) (e : Event) : Observer :=
  match e with
  | .rel .scl =>
    if o.scl = .drivenLow then { o with scl := .released, inPulse := true, edge := false, seen := none }
    else o
  | .low .scl =>
    if o.inPulse && !o.edge then
      { o.takeBit o.pulseBit with scl := .drivenLow, inPulse := false }
    else { o with scl := .drivenLow, inPulse := false }
  | .low .sda =>
    if o.sda = .released ∧ o.scl = .released then { o.condition .start with sda := .drivenLow }
    else { o with sda := .drivenLow }
  | .rel .sda =>
    if o.sda = .drivenLow ∧ o.scl = .released then { o.condition .stop with sda := .released }
    else { o with sda := .released }
  | .smp .sda v => if o.inPulse then { o with seen := some v } else o
  | .smp .scl _ => o
  | .hold => o

/-- `wire(trace)` from the drive states `scl`, `sda`. -/
def wire (scl sda : Drive) (tr : List Event) : List Symbol :=
  (tr.foldl Observer.see
    { scl := scl, sda := sda, inPulse := false, edge := false, seen := none, bits := [],
      symbols := [] }).symbols

/-! ### The named blocks of events (95 section 0) -/

/-- Block S, `start()` whose wait succeeds at its first poll. -/
def blockStart : List Event :=
  [.rel .sda, .rel .scl, .smp .scl .high, .smp .sda .high, .low .sda, .hold, .low .scl, .hold]

/-- Block P, `stop()` with P_STOP_PREDRIVE whose wait succeeds at its first poll. -/
def blockStop : List Event :=
  [.low .sda, .rel .scl, .hold, .rel .sda, .hold, .smp .scl .high, .smp .sda .high]

/-- Blocks b1 and b0, one data bit of `send_byte`. -/
def blockBit (bit : Bool) : List Event :=
  [if bit then .rel .sda else .low .sda, .hold, .rel .scl, .hold, .low .scl]

/-- Block A(v), the acknowledge phase of `send_byte`. -/
def blockAck (v : Level) : List Event :=
  [.rel .sda, .rel .scl, .smp .scl .high, .smp .sda v, .low .scl]

/-- Block TX(b, v), `send_byte(b)` (R120). -/
def blockSend (b : Byte) (v : Level) : List Event :=
  blockBit (b.getLsbD 7) ++ blockBit (b.getLsbD 6) ++ blockBit (b.getLsbD 5) ++
    blockBit (b.getLsbD 4) ++ blockBit (b.getLsbD 3) ++ blockBit (b.getLsbD 2) ++
    blockBit (b.getLsbD 1) ++ blockBit (b.getLsbD 0) ++ blockAck v

/-- Block r(v), one bit of `receive_byte`. -/
def blockRecvBit (v : Level) : List Event :=
  [.rel .scl, .hold, .smp .sda v, .low .scl, .hold]

/-- Blocks K1 and K0, the acknowledge phase of `receive_byte`. -/
def blockRecvAck (a : Bool) : List Event :=
  (if a then [.low .sda] else []) ++ [.hold, .rel .scl, .hold, .low .scl, .hold, .rel .sda]

/-- The level that carries a bit (R126). -/
def levelOf (b : Bool) : Level := if b then .high else .low

/-- The levels of a byte in the order of the wire, bit 7 first (R53). -/
def byteLevels (b : Byte) : List Level :=
  [levelOf (b.getLsbD 7), levelOf (b.getLsbD 6), levelOf (b.getLsbD 5), levelOf (b.getLsbD 4),
    levelOf (b.getLsbD 3), levelOf (b.getLsbD 2), levelOf (b.getLsbD 1), levelOf (b.getLsbD 0)]

/-- Block RX(b, a), `receive_byte(a)` returning b (R125). -/
def blockRecv (b : Byte) (a : Bool) : List Event :=
  .rel .sda :: ((byteLevels b).flatMap blockRecvBit ++ blockRecvAck a)

end Sys2Proof.Machine
end

