-- ==== Sys2Proof/Safety.lean ====
section
/-! DEFINITION. What a state that runs can reach looks like: the invariant every step keeps. -/

namespace Sys2Proof.Safety

open Sys2Proof.Machine

/-- UPC is a place of the pseudocode of command `i`, and the operands the running operation carries are
those of `i` (R24, R121, R127, R141, R145). -/
def placeOf (i : Instr) (u : Upc) : Prop :=
  match i with
  | .release _ => u = .line
  | .driveLow _ => u = .line
  | .readLine _ => u = .line
  | .start => ∃ p, u = .start p
  | .stop => ∃ p, u = .stop .success p
  | .sendByte b => ∃ p, u = .send .operand b p
  | .receiveByte a => ∃ p, u = .recv a p
  | .write address _ =>
    (∃ p, u = .start p) ∨ (∃ p, u = .send .address (addrByte address false) p) ∨
      (∃ b p, u = .send .data b p) ∨ (∃ c p, u = .stop c p)
  | .read address _ nostop =>
    (∃ p, u = .start p) ∨ (∃ p, u = .send .address (addrByte address true) p) ∨
      (∃ a p, u = .recv a p) ∨ (∃ p, u = .stop .success p ∧ nostop = false) ∨
      (∃ p, u = .stop .nakAddress p)

/-- The byte loop of command `i`: IDX, the counter and the operand taken from it (R141, R144, R145,
R147, R151 (d), (e)). -/
def loopOk (i : Instr) (s : State) : Prop :=
  match i with
  | .write _ n =>
    0 < n.toNat ∧
    match s.upc with
    | .start _ => s.nwritten = 0
    | .send .address _ _ => s.nwritten = 0
    | .send .data b _ =>
      s.idx.toNat < n.toNat ∧ s.nwritten = s.idx ∧ b = readByte s (txBase + s.idx.toNat)
    | .stop .success _ => s.nwritten = n ∧ s.ack = true
    | .stop .nakAddress _ => s.nwritten = 0 ∧ s.ack = false
    | .stop .nakData _ => s.nwritten.toNat < n.toNat ∧ s.nwritten = s.idx ∧ s.ack = false
    | _ => True
  | .read _ c _ =>
    0 < c.toNat ∧
    match s.upc with
    | .start _ => s.nread = 0
    | .send _ _ _ => s.nread = 0
    | .recv a _ =>
      s.idx.toNat < c.toNat ∧ s.nread = s.idx ∧ a = ackAfter s.idx.toNat c ∧ s.ack = true
    | .stop .success _ => s.nread = c ∧ s.ack = true
    | .stop .nakAddress _ => s.nread = 0 ∧ s.ack = false
    | _ => True
  | _ => True

/-- The bit loop position is one of 7 down to 0 in a bit loop, and 0 after it (R120, R125). -/
def bitLoopOk (s : State) : Prop :=
  match s.upc with
  | .send _ _ .a1 => s.bitcnt = 0
  | .send _ _ .a2 => s.bitcnt = 0
  | .send _ _ .a3 => s.bitcnt = 0
  | .send _ _ .a4 => s.bitcnt = 0
  | .send _ _ (.a5 ack) => s.bitcnt = 0 ∧ s.ack = ack
  | .send _ _ _ => s.bitcnt.toNat ≤ 7
  | .recv _ .c0 => True
  | .recv _ .c1 => s.bitcnt.toNat ≤ 7
  | .recv _ .c2 => s.bitcnt.toNat ≤ 7
  | .recv _ .c3 => s.bitcnt.toNat ≤ 7
  | .recv _ .c4 => s.bitcnt.toNat ≤ 7
  | .recv _ .c5 => s.bitcnt.toNat ≤ 7
  | .recv a .k1 => s.bitcnt = 0 ∧ a = true
  | .recv _ _ => s.bitcnt = 0
  | _ => True

/-- At a wait, the polls made are below the bound (R96, R97). -/
def waitOk (s : State) : Prop :=
  match s.upc with
  | .start .s3 => waitExpired s = false
  | .stop _ .p5 => waitExpired s = false
  | .send _ _ .a3 => waitExpired s = false
  | _ => True

/-- Both lines are released. -/
abbrev bothReleased (s : State) : Prop := s.outScl = .released ∧ s.outSda = .released

/-- The clock is driven low and the data line released: the end state of `send_byte` and of
`receive_byte` (R120, R125). -/
abbrev clockHeld (s : State) : Prop := s.outScl = .drivenLow ∧ s.outSda = .released

/-- The drive states the pseudocode gives each place of an operation, whatever the state it was entered
in (R105, R107, R120, R125). -/
def linesOk (s : State) : Prop :=
  match s.upc with
  | .start .s1 => True
  | .start .s2 => s.outSda = .released
  | .start .s3 => bothReleased s
  | .start .s4 => bothReleased s
  | .start .s5 => s.outScl = .released ∧ s.outSda = .drivenLow
  | .start .s6 => s.outScl = .released ∧ s.outSda = .drivenLow
  | .start .s7 => s.outScl = .drivenLow ∧ s.outSda = .drivenLow
  | .stop _ .p0 => True
  | .stop _ .p1 => s.cfg.stopPredrive = true → s.outSda = .drivenLow
  | .stop _ .p2 => s.outScl = .released ∧ (s.cfg.stopPredrive = true → s.outSda = .drivenLow)
  | .stop _ .p3 => s.outScl = .released ∧ (s.cfg.stopPredrive = true → s.outSda = .drivenLow)
  | .stop _ .p4 => bothReleased s
  | .stop _ .p5 => bothReleased s
  | .send _ _ .b1 => s.bitcnt ≠ 7 → s.outScl = .drivenLow
  | .send _ b .b2 =>
    (s.bitcnt ≠ 7 → s.outScl = .drivenLow) ∧
      s.outSda = (if bitAt b s.bitcnt then .released else .drivenLow)
  | .send _ b .b3 =>
    (s.bitcnt ≠ 7 → s.outScl = .drivenLow) ∧
      s.outSda = (if bitAt b s.bitcnt then .released else .drivenLow)
  | .send _ b .b4 =>
    s.outScl = .released ∧ s.outSda = (if bitAt b s.bitcnt then .released else .drivenLow)
  | .send _ b .b5 =>
    s.outScl = .released ∧ s.outSda = (if bitAt b s.bitcnt then .released else .drivenLow)
  | .send _ _ .a1 => s.outScl = .drivenLow
  | .send _ _ .a2 => clockHeld s
  | .send _ _ .a3 => bothReleased s
  | .send _ _ .a4 => bothReleased s
  | .send _ _ (.a5 _) => bothReleased s
  | .recv _ .c0 => True
  | .recv _ .c1 => s.outSda = .released ∧ (s.bitcnt ≠ 7 → s.outScl = .drivenLow)
  | .recv _ .c2 => bothReleased s
  | .recv _ .c3 => bothReleased s
  | .recv _ .c4 => bothReleased s
  | .recv _ .c5 => clockHeld s
  | .recv _ .k1 => clockHeld s
  | .recv a .k2 => s.outScl = .drivenLow ∧ s.outSda = (if a then .drivenLow else .released)
  | .recv a .k3 => s.outScl = .drivenLow ∧ s.outSda = (if a then .drivenLow else .released)
  | .recv a .k4 => s.outScl = .released ∧ s.outSda = (if a then .drivenLow else .released)
  | .recv a .k5 => s.outScl = .released ∧ s.outSda = (if a then .drivenLow else .released)
  | .recv a .k6 => s.outScl = .drivenLow ∧ s.outSda = (if a then .drivenLow else .released)
  | .recv a .k7 => s.outScl = .drivenLow ∧ s.outSda = (if a then .drivenLow else .released)
  | _ => True

/-- The clock line a WRITE or READ has taken stays driven low between its operations (R35 (c)): at the
entry of every `send_byte`, `receive_byte` and `stop()` inside a transaction. -/
def ownedOk (i : Instr) (s : State) : Prop :=
  match i with
  | .write _ _ =>
    match s.upc with
    | .send _ _ .b1 => s.outScl = .drivenLow
    | .send _ _ .b2 => s.outScl = .drivenLow
    | .send _ _ .b3 => s.outScl = .drivenLow
    | .stop _ .p0 => clockHeld s
    | .stop _ .p1 => s.outScl = .drivenLow
    | _ => True
  | .read _ _ _ =>
    match s.upc with
    | .send _ _ .b1 => s.outScl = .drivenLow
    | .send _ _ .b2 => s.outScl = .drivenLow
    | .send _ _ .b3 => s.outScl = .drivenLow
    | .recv _ .c0 => clockHeld s
    | .recv _ .c1 => clockHeld s
    | .stop _ .p0 => clockHeld s
    | .stop _ .p1 => s.outScl = .drivenLow
    | _ => True
  | _ => True

/-- Every listed byte of memory lies in one of the two buffers (R50, R51, R57). -/
def inWindows (s : State) : Prop :=
  ∀ c ∈ s.mem, (inTxWindow s.cfg c.1 || inRxWindow s.cfg c.1) = true

/-- The running command: CMDR holds a legal command word, ERR is OK, and UPC is a place of its
pseudocode with the loops where they should be (R24, R27, R52). -/
def running (s : State) : Prop :=
  ∃ i, decode s.cmdr = .ok i ∧ i.wf s.cfg = true ∧ s.err = .ok ∧ placeOf i s.upc ∧ loopOk i s ∧
    ownedOk i s

/-- The invariant of every run. -/
structure Inv (s : State) : Prop where
  /-- The parameters meet R6. -/
  cfgOk : s.cfg.wf
  /-- "UPC = IDLE exactly when BUSY = 0" (R24). -/
  idleOk : s.upc = .idle ↔ s.busy = false
  /-- Memory keeps its canonical form. -/
  memOk : s.mem.wf
  /-- Memory lists nothing outside the buffers. -/
  windowsOk : inWindows s
  /-- While BUSY = 1 a legal command runs. -/
  runOk : s.busy = true → running s
  /-- The bit loop stands in 7..0. -/
  bitsOk : bitLoopOk s
  /-- A wait is below its bound. -/
  waitsOk : waitOk s
  /-- The lines are as the place says. -/
  outOk : linesOk s

end Sys2Proof.Safety
end

