-- ==== Sys2Proof/Certificates/Slice0/Obligations.lean ====
section
/-! DEFINITION. The statements about the machine, one per entry of OBLIGATIONS.json. A statement whose
text names a free value (`Config.freeLevel`, `Config.unwritten`) holds whatever that value is. -/

open Sys2Proof Sys2Proof.Machine Sys2Proof.Safety

namespace Sys2Proof.Claims

/-- OP is one of 0x1 to 0x9 (R72 (a)). -/
def opLegal (w : Word) : Prop := 1 ≤ (opField w).toNat ∧ (opField w).toNat ≤ 9

/-- The commands that do not use F: START, STOP, SEND_BYTE, WRITE (R73). -/
def fUnused (w : Word) : Prop := (opField w).toNat ∈ [4, 5, 6, 8]

/-- The commands that do not use N: RELEASE, DRIVE_LOW, READ_LINE, START, STOP, RECEIVE_BYTE (R73). -/
def nUnused (w : Word) : Prop := (opField w).toNat ∈ [1, 2, 3, 4, 5, 7]

/-- The commands that do not use ADDR: all but WRITE and READ (R73). -/
def addrUnused (w : Word) : Prop := (opField w).toNat ∈ [1, 2, 3, 4, 5, 6, 7]

/-- A legal command, as R72 (a) to (d) word it. -/
def legalWord (p : Params) (w : Word) : Prop :=
  opLegal w ∧ z1Field w = 0 ∧ z0Field w = false ∧
    (fUnused w → fField w = false) ∧ (nUnused w → nField w = 0) ∧ (addrUnused w → addrField w = 0) ∧
    ((opField w).toNat ∈ [8, 9] → (nField w).toNat ≤ p.bufCap)

/-- The command `i` calls `start()`: START, WRITE and READ (R106, R141, R145). -/
def callsStart : Instr → Prop
  | .start => True
  | .write _ _ => True
  | .read _ _ _ => True
  | _ => False

/-- The command `i` calls `stop()` with the ending `after`: STOP with its normal end, WRITE with all three,
READ with its normal end and the address byte's NAK (R109, R141, R145). -/
def callsStop (i : Instr) (after : Closing) : Prop :=
  match i with
  | .stop => after = .success
  | .write _ _ => True
  | .read _ _ _ => after ≠ .nakData
  | _ => False

/-- The command `i` calls `send_byte` at `site` (R121, R141, R145). -/
def callsSend (i : Instr) (site : SendSite) : Prop :=
  match i with
  | .sendByte _ => site = .operand
  | .write _ _ => site ≠ .operand
  | .read _ _ _ => site = .address
  | _ => False

/-- The command `i` calls `receive_byte`: RECEIVE_BYTE and READ (R127, R145). -/
def callsRecv : Instr → Prop
  | .receiveByte _ => True
  | .read _ _ _ => True
  | _ => False

/-- What one poll leads to (R25, R96, R97): `on` when every sample was HIGH, BUS_STUCK at the bound, else
the same place again. `r` is the poll's answer and the state after it. -/
def afterOnePoll (r : Level × State) (on : State → State) : Host.Outcome State Fault Refusal :=
  match r.1 with
  | .high => .next (on r.2)
  | .low =>
    if ∃ n, r.2.cfg.waitLimit = some n ∧ n ≤ r.2.waitcnt then
      .next { r.2 with err := .busStuck, busy := false, upc := .idle }
    else .next r.2

/-- `s` after the accept of command `i` with its first place `u` (R27). -/
def accepted (i : Instr) (u : Upc) (s : State) : State :=
  { s with cmdr := encode i, err := .ok, busy := true, upc := u }

/-- The wait succeeds after `n` failed polls without meeting the bound (R97). -/
def mayFail (p : Params) (n : Nat) : Prop := ∀ k, p.waitLimit = some k → n < k

/-- The events of a list of polls of the two-line condition. -/
def polls (ps : List (Level × Level)) : List Event :=
  ps.flatMap (fun q => [.smp .scl q.1, .smp .sda q.2])

/-- Each poll of the list sees some line LOW. -/
def allFail (ps : List (Level × Level)) : Prop := ∀ q ∈ ps, ¬ (q.1 = .high ∧ q.2 = .high)

/-- The events of `stop()` with its wait failing at the polls `ps` (R107, R113). -/
def stopEvents (p : Params) (ps : List (Level × Level)) : List Event :=
  (if p.stopPredrive then [.low .sda] else []) ++ [.rel .scl, .hold, .rel .sda, .hold] ++ polls ps ++
    [.smp .scl .high, .smp .sda .high]

/-- The number of micro-ops of `stop()` whose wait succeeds at its first poll (R107). -/
def stopOps (p : Params) : Nat := if p.stopPredrive then 6 else 5

/-- The bytes `TXBUF[0..n-1]` of the state `s` (R50). -/
def txBytes (s : State) (n : Nat) : List Byte :=
  (List.range n).map (fun k => readByte s (txBase + k))

/-- RXBUF with the bytes `bs` stored from index `k` on, in receipt order (R51). -/
def storeRx : Nat → List Byte → State → State
  | _, [], s => s
  | k, b :: bs, s => storeRx (k + 1) bs (writeByte (rxBase + k) b s)

/-- The events of `receive_byte` for the bytes of a READ: ACK after all but the last (R145, R147). -/
def recvEvents : List Byte → List Event
  | [] => []
  | [b] => blockRecv b false
  | b :: c :: bs => blockRecv b true ++ recvEvents (c :: bs)

/-- One event as R20 and R90, R91 say it changes OUT. -/
def driveBy (o : Drive × Drive) (e : Event) : Drive × Drive :=
  match e with
  | .rel .scl => (.released, o.2)
  | .rel .sda => (o.1, .released)
  | .low .scl => (.drivenLow, o.2)
  | .low .sda => (o.1, .drivenLow)
  | .smp _ _ => o
  | .hold => o

/-- What the host and the wires can see of a state: every register as a host read returns it, and the
two drive states. -/
def looksAlike (s t : State) : Prop :=
  (∀ n, hostRead s n = hostRead t n) ∧ s.outScl = t.outScl ∧ s.outSda = t.outSda

/-- `s` with other values in the registers that R40 leaves unspecified. -/
def withWorking (w : Word) (a : Byte) (b : BitVec 4) (k : Byte) (n : Nat) (s : State) : State :=
  { s with cmdr := w, acc := a, bitcnt := b, idx := k, waitcnt := n }

/-- The host-visible results and the lines of `s` are those of `t`. -/
def sameResults (s t : State) : Prop :=
  s.err = t.err ∧ s.ack = t.ack ∧ s.lvl = t.lvl ∧ s.data = t.data ∧ s.nwritten = t.nwritten ∧
    s.nread = t.nread ∧ s.mem = t.mem ∧ s.outScl = t.outScl ∧ s.outSda = t.outSda

end Sys2Proof.Claims

open Sys2Proof.Claims

/-! ### Encoding -/

/-- R70, R73, R74: the decoder reads every command back from its own word, with every operand. -/
def Obligations.DecodeOfEncode : Prop :=
  ∀ i : Instr, decode (encode i) = .ok i

/-- R72, R73: a word the decoder reads as `i` is `i`'s own word, so each command has one word. -/
def Obligations.EncodeOfDecode : Prop :=
  ∀ (w : Word) (i : Instr), decode w = .ok i → encode i = w

/-- R72, with R180's accept of an illegal word: exactly the words of R72 (a) to (d) are legal, a word is
one command at most, and any other word issued to an idle engine sets ERR to ILLEGAL_CMD and changes
nothing else. -/
def Obligations.LegalCommandsAreExactly : Prop :=
  (∀ (p : Params) (w : Word),
      (∃ i, decode w = .ok i ∧ i.wf p = true) ↔ legalWord p w) ∧
    ∀ (s : State) (w : Word), s.busy = false → ¬ legalWord s.cfg w →
      issue w s = .next { s with err := .illegalCmd }

/-- R73: the match/mask table selects the row of the command the word decodes to (Z1, Z0 and the unused
fields are inside every mask), and no word selects two rows. -/
def Obligations.MatchMaskSelectsTheRow : Prop :=
  ∀ (w : Word) (i : Instr),
    w &&& (rowMatchMask i).2 = (rowMatchMask i).1 ↔
      ∃ j, decode w = .ok j ∧ rowMatchMask j = rowMatchMask i

/-- R73, R77: words written out from the encoding table. -/
def Obligations.WrittenWordsDecode : Prop :=
  decode 0x10010000 = .ok (.release .sda) ∧ decode 0x20000000 = .ok (.driveLow .scl) ∧
  decode 0x30010000 = .ok (.readLine .sda) ∧ decode 0x40000000 = .ok .start ∧
  decode 0x50000000 = .ok .stop ∧ decode 0x6000A000 = .ok (.sendByte 0xA0) ∧
  decode 0x70010000 = .ok (.receiveByte true) ∧ decode 0x80000250 = .ok (.write 0x50 2) ∧
  decode 0x9001FF7F = .ok (.read 0x7F 255 true) ∧
  decode 0x00000000 = .error .reservedOpcode ∧ decode 0x800002D0 = .error .reservedZ0 ∧
  decode 0x10020000 = .error .reservedZ1 ∧ decode 0x80010250 = .error .unusedF

/-! ### The step -/

/-- R25, R27 and log 2: what step adds around exec. A command word the host writes to CMD of an idle
engine is run as `exec` of the command it decodes to; while BUSY = 1 and the host lets the engine move,
step is `exec` of the command in CMDR; an idle engine does nothing; a host read only passes. -/
def Obligations.StepRunsDecodedCommand : Prop :=
  ∀ (s : State) (i : Instr) (rest : List HostAction),
    (∀ w, s.host = .write 0 w :: rest → s.busy = false → decode w = .ok i →
        step s = exec i { s with host := rest }) ∧
    (s.host = [] → s.busy = true → decode s.cmdr = .ok i → step s = exec i s) ∧
    (s.host = .wait :: rest → s.busy = true → decode s.cmdr = .ok i →
        step s = exec i { s with host := rest }) ∧
    (s.host = [] → s.busy = false → step s = .next s) ∧
    (s.host = .wait :: rest → s.busy = false → step s = .next { s with host := rest }) ∧
    (∀ n, s.host = .read n :: rest → step s = .next { s with host := rest })

/-- Log 8: `withFetchWord` places a command word so that the very next step accepts it. -/
def Obligations.PlacedWordIsNext : Prop :=
  ∀ (s : State) (w : Word) (i : Instr), decode w = .ok i →
    step (s.withFetchWord 32 w.toNat) = exec i { s with busy := false, upc := .idle }

/-! ### The host registers -/

/-- R29, R56: what a host read of each register number returns. -/
def Obligations.HostReadMap : Prop :=
  ∀ s : State,
    hostRead s 0 = 0 ∧ hostRead s 1 = (statusByte s).setWidth 32 ∧
    hostRead s 2 = s.data.setWidth 32 ∧ hostRead s 3 = s.nwritten.setWidth 32 ∧
    hostRead s 4 = s.nread.setWidth 32 ∧
    (∀ k < s.cfg.bufCap, hostRead s (0x100 + k) = (readByte s (0x100 + k)).setWidth 32 ∧
      hostRead s (0x200 + k) = (readByte s (0x200 + k)).setWidth 32) ∧
    ∀ n, 4 < n → (∀ k < s.cfg.bufCap, n ≠ 0x100 + k ∧ n ≠ 0x200 + k) → hostRead s n = 0

/-- R50, R56: a host write to TXBUF of an idle engine is read back and changes no other register; a
write to any other number but CMD changes nothing. Log 16: the register takes the low 8 bits. -/
def Obligations.HostWriteEffect : Prop :=
  ∀ (s : State) (n : Nat) (v : Word) (rest : List HostAction), s.host = .write n v :: rest →
    (∀ k < s.cfg.bufCap, n = 0x100 + k → s.busy = false →
      ∃ t, step s = .next t ∧ hostRead t n = (v.setWidth 8).setWidth 32 ∧
        (∀ m, m ≠ n → hostRead t m = hostRead s m) ∧
        { t with mem := s.mem } = { s with host := rest }) ∧
    (n ≠ 0 → (∀ k < s.cfg.bufCap, n ≠ 0x100 + k) → step s = .next { s with host := rest })

/-- R26, R27, R50: while BUSY = 1 no host action but reset changes anything of the block. -/
def Obligations.BusyIgnoresHostWrites : Prop :=
  ∀ (s : State) (a : HostAction) (rest : List HostAction), s.host = a :: rest → s.busy = true →
    (∀ n v, a = .write n v → step s = .next { s with host := rest }) ∧
    (∀ n, a = .read n → step s = .next { s with host := rest })

/-- R31: STATUS, register 0x001, 8 bits: its fields, the five error codes, its reset value, and that a
host write to it is ignored. The model's choices: a read is zero-extended to the port's 32 bits (log 16),
and a host access is one step that takes the action off the host's list (log 2). -/
def Obligations.StatusLayout : Prop :=
  ∀ s : State,
    hostRead s 0x001 = (statusByte s).setWidth 32 ∧
    (∀ v rest, s.host = .write 0x001 v :: rest → step s = .next { s with host := rest }) ∧
    (statusByte s).getLsbD 0 = s.busy ∧ (statusByte s).getLsbD 1 = s.ack ∧
    (statusByte s).getLsbD 2 = s.lvl ∧ (statusByte s).extractLsb' 3 3 = s.err.code ∧
    (statusByte s).extractLsb' 6 2 = 0 ∧ s.err.code.toNat ≤ 4 ∧
    (s.err = .ok ↔ s.err.code = 0) ∧ (s.err = .noAckAddress ↔ s.err.code = 1) ∧
    (s.err = .noAckData ↔ s.err.code = 2) ∧ (s.err = .busStuck ↔ s.err.code = 3) ∧
    (s.err = .illegalCmd ↔ s.err.code = 4) ∧ statusByte State.reset = 0

/-- R27: command accept. An idle engine that is issued a legal command takes it over as one step, with
its first place and its counter cleared; a WRITE or READ with N = 0 completes in the accept; an
illegal word sets ILLEGAL_CMD and nothing else; a busy engine ignores the word. BITCNT = 7 belongs to
the first bit of `send_byte` (R120). -/
def Obligations.AcceptCommand : Prop :=
  ∀ (s : State) (w : Word),
    (s.busy = true → issue w s = .next s) ∧
    (s.busy = false → ¬ legalWord s.cfg w → issue w s = .next { s with err := .illegalCmd }) ∧
    ∀ i, s.busy = false → decode w = .ok i → i.wf s.cfg = true →
      match i with
      | .release _ => issue w s = .next { s with cmdr := w, err := .ok, busy := true, upc := .line }
      | .driveLow _ => issue w s = .next { s with cmdr := w, err := .ok, busy := true, upc := .line }
      | .readLine _ => issue w s = .next { s with cmdr := w, err := .ok, busy := true, upc := .line }
      | .start => issue w s = .next { s with cmdr := w, err := .ok, busy := true, upc := .start .s1 }
      | .stop => issue w s = .next { s with
          cmdr := w, err := .ok, busy := true,
          upc := .stop .success (if s.cfg.stopPredrive then .p0 else .p1) }
      | .sendByte b => issue w s = .next { s with
          cmdr := w, err := .ok, busy := true, bitcnt := 7, upc := .send .operand b .b1 }
      | .receiveByte a => issue w s = .next { s with
          cmdr := w, err := .ok, busy := true, upc := .recv a .c0 }
      | .write _ n => issue w s = .next { s with
          cmdr := w, err := .ok, nwritten := 0, busy := decide (n ≠ 0),
          upc := if n = 0 then .idle else .start .s1 }
      | .read _ c _ => issue w s = .next { s with
          cmdr := w, err := .ok, nread := 0, busy := decide (c ≠ 0),
          upc := if c = 0 then .idle else .start .s1 }

/-! ### Reset and construction -/

/-- R40: the values the spec gives for reset, right after power-on and after a reset at any moment,
BUSY = 1 included; the parameters are kept. Nothing is said of the registers R40 leaves unspecified.
The model's choices, not the spec's: a reset takes the host's script on by one action (log 21), and
`State.reset` has the default parameters (log 6). -/
def Obligations.ResetValues : Prop :=
  (∀ (s t : State) (rest : List HostAction), s.host = .reset :: rest → step s = .next t →
    bothReleased t ∧ t.busy = false ∧ t.upc = .idle ∧ t.ack = false ∧ t.lvl = false ∧ t.err = .ok ∧
      t.data = 0 ∧ t.nwritten = 0 ∧ t.nread = 0 ∧ t.cfg = s.cfg ∧ t.host = rest) ∧
  (∀ (s : State) (rest : List HostAction), s.host = .reset :: rest → ∃ t, step s = .next t) ∧
  bothReleased State.reset ∧ State.reset.busy = false ∧ State.reset.upc = .idle ∧
  State.reset.ack = false ∧ State.reset.lvl = false ∧ State.reset.err = .ok ∧
  State.reset.data = 0 ∧ State.reset.nwritten = 0 ∧ State.reset.nread = 0 ∧
  State.reset.cfg = Params.default

/-- R6, R181: a block is built exactly from the parameters that meet R6; the refusal is no run-time
error. -/
def Obligations.BuiltOnlyFromLegalParameters : Prop :=
  ∀ p : Params,
    ((p.sclPin ≠ p.sdaPin ∧ 1 ≤ p.bufCap ∧ p.bufCap ≤ 255 ∧ p.waitLimit ≠ some 0) →
      State.build p = .next (State.initial p)) ∧
    (¬ (p.sclPin ≠ p.sdaPin ∧ 1 ≤ p.bufCap ∧ p.bufCap ≤ 255 ∧ p.waitLimit ≠ some 0) →
      ∃ e, State.build p = .refused (.configuration e))

/-- R32: no step changes the parameters. -/
def Obligations.ParametersNeverChange : Prop :=
  ∀ s t : State, step s = .next t → t.cfg = s.cfg

/-! ### The lines -/

/-- R93: the open-drain resolution of a sample; a released line is the environment's, from its script or,
past its end, the free level. -/
def Obligations.LevelOfALine : Prop :=
  ∀ (s : State) (l : Line),
    (s.out l = .drivenLow → sample l s = (.low, s)) ∧
    (∀ v vs, s.out l = .released → s.answers l = v :: vs →
      sample l s = (v, s.setAnswers l vs)) ∧
    (s.out l = .released → s.answers l = [] →
      sample l s = (Config.freeLevel s.draws, { s with draws := s.draws + 1 }))

/-- R21, R22: the pad of a line drives level LOW or nothing, in every state. -/
def Obligations.NeverDrivenHigh : Prop :=
  ∀ (s : State) (l : Line),
    (padOe s l = true ↔ s.out l = .drivenLow) ∧ (padOe s l = false ↔ s.out l = .released) ∧
      padLevel = .low

/-- R12, R20, R90, R91, R92, R95: in every step but a reset, OUT changes exactly as the step's events
say: a host action, a sample and a hold change neither line. -/
def Obligations.OutFollowsTheTrace : Prop :=
  ∀ s t : State, step s = .next t → (∀ rest, s.host ≠ .reset :: rest) →
    (t.outScl, t.outSda) = (stepEvents s).foldl driveBy (s.outScl, s.outSda)

/-- R102: no step of the engine changes both lines. -/
def Obligations.OneLineAtATime : Prop :=
  ∀ s t : State, engineMoves s = true → step s = .next t →
    t.outScl = s.outScl ∨ t.outSda = s.outSda

/-! ### The line-driver commands -/

/-- R98: RELEASE from an idle engine, whatever the lines: accept, then one micro-op. -/
def Obligations.ReleaseCompletes : Prop :=
  ∀ (s : State) (l : Line), s.busy = false →
    exec (.release l) s = .next (accepted (.release l) .line s) ∧
    exec (.release l) (accepted (.release l) .line s)
      = .next { s.setOut l .released with
          cmdr := encode (.release l), err := .ok, busy := false, upc := .idle } ∧
    execTrace (.release l) 2 s = [.rel l]

/-- R99: DRIVE_LOW from an idle engine, whatever the lines. -/
def Obligations.DriveLowCompletes : Prop :=
  ∀ (s : State) (l : Line), s.busy = false →
    exec (.driveLow l) s = .next (accepted (.driveLow l) .line s) ∧
    exec (.driveLow l) (accepted (.driveLow l) .line s)
      = .next { s.setOut l .drivenLow with
          cmdr := encode (.driveLow l), err := .ok, busy := false, upc := .idle } ∧
    execTrace (.driveLow l) 2 s = [.low l]

/-- R94, R93: READ_LINE from an idle engine: LVL is the level sampled, LOW for a line the engine drives,
else the environment's answer; OUT is not changed. -/
def Obligations.ReadLineCompletes : Prop :=
  ∀ (s : State) (l : Line), s.busy = false →
    exec (.readLine l) s = .next (accepted (.readLine l) .line s) ∧
    (s.out l = .drivenLow →
      exec (.readLine l) (accepted (.readLine l) .line s)
        = .next { s with
            cmdr := encode (.readLine l), err := .ok, busy := false, upc := .idle, lvl := false } ∧
      execTrace (.readLine l) 2 s = [.smp l .low]) ∧
    (∀ v vs, s.out l = .released → s.answers l = v :: vs →
      exec (.readLine l) (accepted (.readLine l) .line s)
        = .next { s.setAnswers l vs with
            cmdr := encode (.readLine l), err := .ok, busy := false, upc := .idle,
            lvl := decide (v = .high) } ∧
      execTrace (.readLine l) 2 s = [.smp l v]) ∧
    (s.out l = .released → s.answers l = [] →
      exec (.readLine l) (accepted (.readLine l) .line s)
        = .next { s with
            cmdr := encode (.readLine l), err := .ok, busy := false, upc := .idle,
            lvl := decide (Config.freeLevel s.draws = .high), draws := s.draws + 1 })

/-! ### START and STOP -/

/-- R105, R25, R96: each micro-op of `start()` in every command that calls it, from every state; the end
of the operation is START's own (R106). -/
def Obligations.StartMicroOps : Prop :=
  ∀ (i : Instr) (s : State), callsStart i → s.busy = true →
    (s.upc = .start .s1 → exec i s = .next { s with outSda := .released, upc := .start .s2 }) ∧
    (s.upc = .start .s2 →
      exec i s = .next { s with outScl := .released, waitcnt := 0, upc := .start .s3 }) ∧
    (s.upc = .start .s3 →
      exec i s = afterOnePoll (poll .bothHigh s) (fun t => { t with upc := .start .s4 })) ∧
    (s.upc = .start .s4 → exec i s = .next { s with outSda := .drivenLow, upc := .start .s5 }) ∧
    (s.upc = .start .s5 → exec i s = .next { s with upc := .start .s6 }) ∧
    (s.upc = .start .s6 → exec i s = .next { s with outScl := .drivenLow, upc := .start .s7 }) ∧
    (s.upc = .start .s7 → i = .start → exec i s = .next { s with busy := false, upc := .idle })

/-- R105, R106, R110: START completes from every idle state, whatever the lines, once a poll sees both
lines HIGH after any number of failed ones; its trace and end state. -/
def Obligations.StartCompletes : Prop :=
  ∀ (s : State) (ps : List (Level × Level)) (c d : List Level), s.busy = false →
    allFail ps → mayFail s.cfg ps.length →
    s.sclIn = ps.map Prod.fst ++ .high :: c → s.sdaIn = ps.map Prod.snd ++ .high :: d →
    exec .start s = .next (accepted .start (.start .s1) s) ∧
    execMany .start (ps.length + 7) (accepted .start (.start .s1) s)
      = .next { s with
          cmdr := encode .start, err := .ok, busy := false, upc := .idle, outScl := .drivenLow,
          outSda := .drivenLow, waitcnt := ps.length + 1, sclIn := c, sdaIn := d } ∧
    execTrace .start (ps.length + 8) s
      = [.rel .sda, .rel .scl] ++ polls ps ++
          [.smp .scl .high, .smp .sda .high, .low .sda, .hold, .low .scl, .hold]

/-- R107, R113, R25, R96: each micro-op of `stop()` in every command that calls it, from every state; the
end of the operation is the command's normal end, or the raise of the NAK's code (R109, R141, R145,
R176). -/
def Obligations.StopMicroOps : Prop :=
  ∀ (i : Instr) (c : Closing) (s : State), callsStop i c → s.busy = true →
    (s.upc = .stop c .p0 → exec i s = .next { s with outSda := .drivenLow, upc := .stop c .p1 }) ∧
    (s.upc = .stop c .p1 → exec i s = .next { s with outScl := .released, upc := .stop c .p2 }) ∧
    (s.upc = .stop c .p2 → exec i s = .next { s with upc := .stop c .p3 }) ∧
    (s.upc = .stop c .p3 → exec i s = .next { s with outSda := .released, upc := .stop c .p4 }) ∧
    (s.upc = .stop c .p4 → exec i s = .next { s with waitcnt := 0, upc := .stop c .p5 }) ∧
    (s.upc = .stop c .p5 →
      exec i s = afterOnePoll (poll .bothHigh s) (fun t =>
        match c with
        | .success => { t with busy := false, upc := .idle }
        | .nakAddress => { t with err := .noAckAddress, busy := false, upc := .idle }
        | .nakData => { t with err := .noAckData, busy := false, upc := .idle }))

/-- R107, R108, R109, R113: STOP completes from every idle state, whatever the lines and under both
values of P_STOP_PREDRIVE; both lines end RELEASED. -/
def Obligations.StopCompletes : Prop :=
  ∀ (s : State) (ps : List (Level × Level)) (c d : List Level), s.busy = false →
    allFail ps → mayFail s.cfg ps.length →
    s.sclIn = ps.map Prod.fst ++ .high :: c → s.sdaIn = ps.map Prod.snd ++ .high :: d →
    exec .stop s
      = .next (accepted .stop (.stop .success (if s.cfg.stopPredrive then .p0 else .p1)) s) ∧
    execMany .stop (stopOps s.cfg + ps.length)
        (accepted .stop (.stop .success (if s.cfg.stopPredrive then .p0 else .p1)) s)
      = .next { s with
          cmdr := encode .stop, err := .ok, busy := false, upc := .idle, outScl := .released,
          outSda := .released, waitcnt := ps.length + 1, sclIn := c, sdaIn := d } ∧
    execTrace .stop (stopOps s.cfg + ps.length + 1) s = stopEvents s.cfg ps

/-! ### SEND_BYTE and RECEIVE_BYTE -/

/-- R120, R25, R96: each micro-op of `send_byte(b)` in every command that calls it, from every state; the
end of the operation is SEND_BYTE's own (R121). -/
def Obligations.SendByteMicroOps : Prop :=
  ∀ (i : Instr) (site : SendSite) (b : Byte) (s : State), callsSend i site → s.busy = true →
    (s.upc = .send site b .b1 → exec i s = .next { s with
      outSda := (if b.getLsbD s.bitcnt.toNat then .released else .drivenLow),
      upc := .send site b .b2 }) ∧
    (s.upc = .send site b .b2 → exec i s = .next { s with upc := .send site b .b3 }) ∧
    (s.upc = .send site b .b3 →
      exec i s = .next { s with outScl := .released, upc := .send site b .b4 }) ∧
    (s.upc = .send site b .b4 → exec i s = .next { s with upc := .send site b .b5 }) ∧
    (s.upc = .send site b .b5 → s.bitcnt ≠ 0 → exec i s = .next { s with
      outScl := .drivenLow, bitcnt := s.bitcnt - 1, upc := .send site b .b1 }) ∧
    (s.upc = .send site b .b5 → s.bitcnt = 0 → exec i s = .next { s with
      outScl := .drivenLow, upc := .send site b .a1 }) ∧
    (s.upc = .send site b .a1 →
      exec i s = .next { s with outSda := .released, upc := .send site b .a2 }) ∧
    (s.upc = .send site b .a2 → exec i s = .next { s with
      outScl := .released, waitcnt := 0, upc := .send site b .a3 }) ∧
    (s.upc = .send site b .a3 →
      exec i s = afterOnePoll (poll .sclHigh s) (fun t => { t with upc := .send site b .a4 })) ∧
    (s.upc = .send site b .a4 → exec i s = .next { (sample .sda s).2 with
      ack := decide ((sample .sda s).1 = .low),
      upc := .send site b (.a5 (decide ((sample .sda s).1 = .low))) }) ∧
    (∀ ack, s.upc = .send site b (.a5 ack) → i = .sendByte b → site = .operand →
      exec i s = .next { s with outScl := .drivenLow, busy := false, upc := .idle })

/-- R120, R121: SEND_BYTE completes from every idle state, whatever the lines, the slave stretching the
ninth pulse for `n` polls and answering `v`: the eight bits go out most significant first, ACK is set
exactly when `v` is LOW, ERR stays OK, and the end state is clock LOW, data released. -/
def Obligations.SendByteCompletes : Prop :=
  ∀ (s : State) (b : Byte) (n : Nat) (v : Level) (c d : List Level), s.busy = false →
    mayFail s.cfg n → s.sclIn = List.replicate n .low ++ .high :: c → s.sdaIn = v :: d →
    exec (.sendByte b) s
      = .next { accepted (.sendByte b) (.send .operand b .b1) s with bitcnt := 7 } ∧
    execMany (.sendByte b) (n + 45)
        { accepted (.sendByte b) (.send .operand b .b1) s with bitcnt := 7 }
      = .next { s with
          cmdr := encode (.sendByte b), err := .ok, busy := false, upc := .idle,
          outScl := .drivenLow, outSda := .released, bitcnt := 0, waitcnt := n + 1,
          ack := decide (v = .low), sclIn := c, sdaIn := d } ∧
    execTrace (.sendByte b) (n + 46) s
      = blockBit (b.getLsbD 7) ++ blockBit (b.getLsbD 6) ++ blockBit (b.getLsbD 5) ++
        blockBit (b.getLsbD 4) ++ blockBit (b.getLsbD 3) ++ blockBit (b.getLsbD 2) ++
        blockBit (b.getLsbD 1) ++ blockBit (b.getLsbD 0) ++ [.rel .sda, .rel .scl] ++
        List.replicate n (.smp .scl .low) ++ [.smp .scl .high, .smp .sda v, .low .scl]

/-- R125, R126, R25: each micro-op of `receive_byte(a)` in every command that calls it, from every state;
the end of the operation is RECEIVE_BYTE's own (R127). -/
def Obligations.ReceiveByteMicroOps : Prop :=
  ∀ (i : Instr) (a : Bool) (s : State), callsRecv i → s.busy = true →
    (s.upc = .recv a .c0 → exec i s = .next { s with
      outSda := .released, acc := 0, bitcnt := 7, upc := .recv a .c1 }) ∧
    (s.upc = .recv a .c1 → exec i s = .next { s with outScl := .released, upc := .recv a .c2 }) ∧
    (s.upc = .recv a .c2 → exec i s = .next { s with upc := .recv a .c3 }) ∧
    (s.upc = .recv a .c3 → exec i s = .next { (sample .sda s).2 with
      acc := (s.acc <<< 1) ||| (if (sample .sda s).1 = .high then 1 else 0),
      upc := .recv a .c4 }) ∧
    (s.upc = .recv a .c4 → exec i s = .next { s with outScl := .drivenLow, upc := .recv a .c5 }) ∧
    (s.upc = .recv a .c5 → s.bitcnt ≠ 0 → exec i s = .next { s with
      bitcnt := s.bitcnt - 1, upc := .recv a .c1 }) ∧
    (s.upc = .recv a .c5 → s.bitcnt = 0 → exec i s = .next { s with
      upc := .recv a (if a then .k1 else .k2) }) ∧
    (s.upc = .recv a .k1 → exec i s = .next { s with outSda := .drivenLow, upc := .recv a .k2 }) ∧
    (s.upc = .recv a .k2 → exec i s = .next { s with upc := .recv a .k3 }) ∧
    (s.upc = .recv a .k3 → exec i s = .next { s with outScl := .released, upc := .recv a .k4 }) ∧
    (s.upc = .recv a .k4 → exec i s = .next { s with upc := .recv a .k5 }) ∧
    (s.upc = .recv a .k5 → exec i s = .next { s with outScl := .drivenLow, upc := .recv a .k6 }) ∧
    (s.upc = .recv a .k6 → exec i s = .next { s with upc := .recv a .k7 }) ∧
    (s.upc = .recv a .k7 → i = .receiveByte a → exec i s = .next { s with
      outSda := .released, data := s.acc, busy := false, upc := .idle })

/-- R125, R126, R127: RECEIVE_BYTE completes from every idle state, whatever the lines; DATA is the byte
presented bit 7 first, the flag ACK is not written, and the end state is clock LOW, data released. -/
def Obligations.ReceiveByteCompletes : Prop :=
  ∀ (s : State) (a : Bool) (b : Byte) (d : List Level), s.busy = false →
    s.sdaIn = byteLevels b ++ d →
    exec (.receiveByte a) s = .next (accepted (.receiveByte a) (.recv a .c0) s) ∧
    execMany (.receiveByte a) (if a then 48 else 47) (accepted (.receiveByte a) (.recv a .c0) s)
      = .next { s with
          cmdr := encode (.receiveByte a), err := .ok, busy := false, upc := .idle,
          outScl := .drivenLow, outSda := .released, acc := b, bitcnt := 0, data := b,
          sdaIn := d } ∧
    execTrace (.receiveByte a) (if a then 49 else 48) s = blockRecv b a

/-! ### WRITE -/

/-- R143, R27: a zero-length WRITE or READ is complete with its accept: no micro-op, no event, count 0, and
nothing else changes. The result OK is the spec's own decision D16; that this accept writes CMDR and ERR
is the model's reading of R27 (log 18, DEDUCED). -/
def Obligations.ZeroLengthIsANoOp : Prop :=
  ∀ (s : State) (address : BitVec 7) (nostop : Bool), s.busy = false →
    exec (.write address 0) s = .next { s with
      cmdr := encode (.write address 0), err := .ok, nwritten := 0, busy := false, upc := .idle } ∧
    exec (.read address 0 nostop) s = .next { s with
      cmdr := encode (.read address 0 nostop), err := .ok, nread := 0, busy := false, upc := .idle } ∧
    execTrace (.write address 0) 1 s = [] ∧ execTrace (.read address 0 nostop) 1 s = []

/-- R141, R63, R144: where WRITE goes at the end of each operation it calls. The byte after the address
or after an acknowledged byte is TXBUF at the next index, read then; the last acknowledged byte and
every NAK lead to `stop()` (R107), which begins at P0 under P_STOP_PREDRIVE (R113; log 15, DESIGN
CHOICE). The steps the assignments fall in are log 12 (DEDUCED). -/
def Obligations.WriteSequence : Prop :=
  ∀ (s : State) (address : BitVec 7) (n : Byte), s.busy = true →
    (s.upc = .start .s7 → exec (.write address n) s = .next { s with
      bitcnt := 7, upc := .send .address (address.setWidth 8 <<< 1) .b1 }) ∧
    (∀ b, s.upc = .send .address b (.a5 true) → 0 < s.cfg.bufCap →
      exec (.write address n) s = .next { s with
        outScl := .drivenLow, idx := 0, bitcnt := 7,
        upc := .send .data (readByte s 0x100) .b1 }) ∧
    (∀ b, s.upc = .send .address b (.a5 false) → exec (.write address n) s = .next { s with
      outScl := .drivenLow,
      upc := .stop .nakAddress (if s.cfg.stopPredrive then .p0 else .p1) }) ∧
    (∀ b, s.upc = .send .data b (.a5 true) → s.idx.toNat + 1 < n.toNat →
      s.idx.toNat + 1 < s.cfg.bufCap → exec (.write address n) s = .next { s with
        outScl := .drivenLow, nwritten := s.idx + 1, idx := s.idx + 1, bitcnt := 7,
        upc := .send .data (readByte s (0x100 + (s.idx.toNat + 1))) .b1 }) ∧
    (∀ b, s.upc = .send .data b (.a5 true) → n.toNat ≤ s.idx.toNat + 1 →
      exec (.write address n) s = .next { s with
        outScl := .drivenLow, nwritten := s.idx + 1,
        upc := .stop .success (if s.cfg.stopPredrive then .p0 else .p1) }) ∧
    (∀ b, s.upc = .send .data b (.a5 false) → exec (.write address n) s = .next { s with
      outScl := .drivenLow, upc := .stop .nakData (if s.cfg.stopPredrive then .p0 else .p1) })

/-- R141, R142, T2: WRITE of n >= 1 bytes to a slave that acknowledges every byte and stretches no clock
completes from every idle state; ERR = OK, NWRITTEN = n, both lines released, and the trace is START,
the address byte, TXBUF[0..n-1] in order, STOP. -/
def Obligations.WriteCompletes : Prop :=
  ∀ (s : State) (address : BitVec 7) (n : Byte) (c d : List Level), s.busy = false → n ≠ 0 →
    n.toNat ≤ s.cfg.bufCap → mayFail s.cfg 0 →
    s.sclIn = List.replicate (n.toNat + 3) .high ++ c →
    s.sdaIn = .high :: (List.replicate (n.toNat + 1) .low ++ .high :: d) →
    exec (.write address n) s
      = .next { accepted (.write address n) (.start .s1) s with nwritten := 0 } ∧
    execMany (.write address n) (52 + 45 * n.toNat + stopOps s.cfg)
        { accepted (.write address n) (.start .s1) s with nwritten := 0 }
      = .next { s with
          cmdr := encode (.write address n), err := .ok, busy := false, upc := .idle,
          outScl := .released, outSda := .released, bitcnt := 0, waitcnt := 1, idx := n - 1,
          nwritten := n, ack := true, sclIn := c, sdaIn := d } ∧
    execTrace (.write address n) (53 + 45 * n.toNat + stopOps s.cfg) s
      = blockStart ++ blockSend (addrByte address false) .low ++
        (txBytes s n.toNat).flatMap (fun b => blockSend b .low) ++ stopEvents s.cfg []

/-- R141, R177: WRITE whose address byte is not acknowledged: STOP, then NO_ACK_ADDRESS; no data byte is
sent, NWRITTEN = 0. -/
def Obligations.WriteAddressNak : Prop :=
  ∀ (s : State) (address : BitVec 7) (n : Byte) (c d : List Level), s.busy = false → n ≠ 0 →
    n.toNat ≤ s.cfg.bufCap → mayFail s.cfg 0 →
    s.sclIn = .high :: .high :: .high :: c → s.sdaIn = .high :: .high :: .high :: d →
    execMany (.write address n) (53 + stopOps s.cfg) s
      = .next { s with
          cmdr := encode (.write address n), err := .noAckAddress, busy := false, upc := .idle,
          outScl := .released, outSda := .released, bitcnt := 0, waitcnt := 1,
          nwritten := 0, ack := false, sclIn := c, sdaIn := d } ∧
    execTrace (.write address n) (53 + stopOps s.cfg) s
      = blockStart ++ blockSend (addrByte address false) .high ++ stopEvents s.cfg []

/-- R141, R144, R178: WRITE whose data byte k is the first not acknowledged: STOP, then NO_ACK_DATA with
NWRITTEN = k; bytes 0..k were put on the wire and none after. -/
def Obligations.WriteDataNak : Prop :=
  ∀ (s : State) (address : BitVec 7) (n k : Byte) (c d : List Level), s.busy = false →
    k.toNat < n.toNat → n.toNat ≤ s.cfg.bufCap → mayFail s.cfg 0 →
    s.sclIn = List.replicate (k.toNat + 4) .high ++ c →
    s.sdaIn = .high :: (List.replicate (k.toNat + 1) .low ++ .high :: .high :: d) →
    execMany (.write address n) (53 + 45 * (k.toNat + 1) + stopOps s.cfg) s
      = .next { s with
          cmdr := encode (.write address n), err := .noAckData, busy := false, upc := .idle,
          outScl := .released, outSda := .released, bitcnt := 0, waitcnt := 1, idx := k,
          nwritten := k, ack := false, sclIn := c, sdaIn := d } ∧
    execTrace (.write address n) (53 + 45 * (k.toNat + 1) + stopOps s.cfg) s
      = blockStart ++ blockSend (addrByte address false) .low ++
        (txBytes s k.toNat).flatMap (fun b => blockSend b .low) ++
        blockSend (readByte s (0x100 + k.toNat)) .high ++ stopEvents s.cfg []

/-! ### READ -/

/-- R145, R147, R148: where READ goes at the end of each operation it calls. Byte k is acknowledged
exactly when it is not the last; each byte is stored to RXBUF at its index and counted; NOSTOP leaves
out the last `stop()` only. `stop()` (R107) begins at P0 under P_STOP_PREDRIVE (R113; log 15, DESIGN
CHOICE). The steps the assignments fall in are log 12 (DEDUCED). -/
def Obligations.ReadSequence : Prop :=
  ∀ (s : State) (address : BitVec 7) (c : Byte) (nostop : Bool), s.busy = true →
    (s.upc = .start .s7 → exec (.read address c nostop) s = .next { s with
      bitcnt := 7, upc := .send .address ((address.setWidth 8 <<< 1) ||| 1) .b1 }) ∧
    (∀ b, s.upc = .send .address b (.a5 true) → exec (.read address c nostop) s = .next { s with
      outScl := .drivenLow, idx := 0, upc := .recv (decide (1 < c.toNat)) .c0 }) ∧
    (∀ b, s.upc = .send .address b (.a5 false) → exec (.read address c nostop) s = .next { s with
      outScl := .drivenLow,
      upc := .stop .nakAddress (if s.cfg.stopPredrive then .p0 else .p1) }) ∧
    (∀ a, s.upc = .recv a .k7 → s.idx.toNat < s.cfg.bufCap → s.idx.toNat + 1 < c.toNat →
      exec (.read address c nostop) s = .next { s with
        outSda := .released, data := s.acc, mem := s.mem.write (0x200 + s.idx.toNat) s.acc,
        nread := s.idx + 1, idx := s.idx + 1,
        upc := .recv (decide (s.idx.toNat + 2 < c.toNat)) .c0 }) ∧
    (∀ a, s.upc = .recv a .k7 → s.idx.toNat < s.cfg.bufCap → c.toNat ≤ s.idx.toNat + 1 →
      exec (.read address c nostop) s =
        if nostop then .next { s with
          outSda := .released, data := s.acc, mem := s.mem.write (0x200 + s.idx.toNat) s.acc,
          nread := s.idx + 1, busy := false, upc := .idle }
        else .next { s with
          outSda := .released, data := s.acc, mem := s.mem.write (0x200 + s.idx.toNat) s.acc,
          nread := s.idx + 1, upc := .stop .success (if s.cfg.stopPredrive then .p0 else .p1) })

/-- R145, R146, R147, R148: READ of c >= 1 bytes whose address is acknowledged completes from every idle
state: the bytes presented stand in RXBUF in receipt order, NREAD = c, DATA is the last of them, ACK is
the address byte's; with NOSTOP the bus stays owned, else a STOP ends it. -/
def Obligations.ReadCompletes : Prop :=
  ∀ (s : State) (address : BitVec 7) (bs : List Byte) (nostop : Bool) (c d : List Level),
    s.busy = false → bs ≠ [] → bs.length ≤ 255 → bs.length ≤ s.cfg.bufCap → mayFail s.cfg 0 →
    s.sclIn = .high :: .high :: (if nostop then c else .high :: c) →
    s.sdaIn = .high :: .low :: (bs.flatMap byteLevels ++ (if nostop then d else .high :: d)) →
    exec (.read address (BitVec.ofNat 8 bs.length) nostop) s
      = .next { accepted (.read address (BitVec.ofNat 8 bs.length) nostop) (.start .s1) s with
          nread := 0 } ∧
    execMany (.read address (BitVec.ofNat 8 bs.length) nostop)
        (51 + 48 * bs.length + (if nostop then 0 else stopOps s.cfg))
        { accepted (.read address (BitVec.ofNat 8 bs.length) nostop) (.start .s1) s with nread := 0 }
      = .next { storeRx 0 bs s with
          cmdr := encode (.read address (BitVec.ofNat 8 bs.length) nostop), err := .ok,
          busy := false, upc := .idle,
          outScl := if nostop then .drivenLow else .released, outSda := .released,
          acc := bs.getLast!, data := bs.getLast!, bitcnt := 0, waitcnt := 1,
          idx := BitVec.ofNat 8 (bs.length - 1), nread := BitVec.ofNat 8 bs.length, ack := true,
          sclIn := c, sdaIn := d } ∧
    execTrace (.read address (BitVec.ofNat 8 bs.length) nostop)
        (52 + 48 * bs.length + (if nostop then 0 else stopOps s.cfg)) s
      = blockStart ++ blockSend (addrByte address true) .low ++ recvEvents bs ++
        (if nostop then [] else stopEvents s.cfg [])

/-- R145, R148, R149: READ whose address byte is not acknowledged: STOP whatever NOSTOP is, then
NO_ACK_ADDRESS with NREAD = 0; RXBUF and DATA are unchanged. -/
def Obligations.ReadAddressNak : Prop :=
  ∀ (s : State) (address : BitVec 7) (n : Byte) (nostop : Bool) (c d : List Level),
    s.busy = false → n ≠ 0 → n.toNat ≤ s.cfg.bufCap → mayFail s.cfg 0 →
    s.sclIn = .high :: .high :: .high :: c → s.sdaIn = .high :: .high :: .high :: d →
    execMany (.read address n nostop) (53 + stopOps s.cfg) s
      = .next { s with
          cmdr := encode (.read address n nostop), err := .noAckAddress, busy := false, upc := .idle,
          outScl := .released, outSda := .released, bitcnt := 0, waitcnt := 1,
          nread := 0, ack := false, sclIn := c, sdaIn := d } ∧
    execTrace (.read address n nostop) (53 + stopOps s.cfg) s
      = blockStart ++ blockSend (addrByte address true) .high ++ stopEvents s.cfg []

/-! ### Waits -/

/-- R96, R112, R196: with no bound, a wait whose polls all fail keeps the engine at its place however
many polls are made: BUSY stays 1, ERR, the lines and the results stay as they are. For each of the
three places, in every command that reaches it. -/
def Obligations.UnboundedWaitGoesOn : Prop :=
  ∀ (i : Instr) (s : State) (ps : List (Level × Level)) (c d : List Level), s.busy = true →
    s.cfg.waitLimit = none → s.outScl = .released → s.outSda = .released →
    s.sclIn = ps.map Prod.fst ++ c →
    ((callsStart i ∧ s.upc = .start .s3 ∨ ∃ k, callsStop i k ∧ s.upc = .stop k .p5) →
      allFail ps → s.sdaIn = ps.map Prod.snd ++ d →
      execMany i ps.length s
        = .next { s with waitcnt := s.waitcnt + ps.length, sclIn := c, sdaIn := d }) ∧
    ((∃ site b, callsSend i site ∧ s.upc = .send site b .a3) → (∀ q ∈ ps, q.1 = .low) →
      execMany i ps.length s = .next { s with waitcnt := s.waitcnt + ps.length, sclIn := c })

/-- R97, R176, R179: with WAIT_LIMIT = some n the n-th failed poll of one wait raises BUS_STUCK: the
command ends at once, both lines released, no STOP attempted, every result as it stood. For each of
the three places, in every command that reaches it. -/
def Obligations.NthFailedPollRaisesBusStuck : Prop :=
  ∀ (i : Instr) (s : State) (ps : List (Level × Level)) (c d : List Level), s.busy = true →
    ps ≠ [] → s.cfg.waitLimit = some ps.length → s.waitcnt = 0 →
    s.outScl = .released → s.outSda = .released → s.sclIn = ps.map Prod.fst ++ c →
    ((callsStart i ∧ s.upc = .start .s3 ∨ ∃ k, callsStop i k ∧ s.upc = .stop k .p5) →
      allFail ps → s.sdaIn = ps.map Prod.snd ++ d →
      execMany i ps.length s = .next { s with
        waitcnt := ps.length, sclIn := c, sdaIn := d, err := .busStuck, busy := false,
        upc := .idle }) ∧
    ((∃ site b, callsSend i site ∧ s.upc = .send site b .a3) → (∀ q ∈ ps, q.1 = .low) →
      execMany i ps.length s = .next { s with
        waitcnt := ps.length, sclIn := c, err := .busStuck, busy := false, upc := .idle })

/-! ### Invariants -/

/-- The invariant holds right after reset, of every block that can be built (R40, R181). -/
def Obligations.InvAtReset : Prop :=
  Inv State.reset ∧ ∀ (p : Params) (s : State), State.build p = .next s → Inv s

/-- Every step of the machine keeps the invariant, from every state that meets it: R6, R24, R27, R35,
R50 to R52, R96, R97, R105, R107, R120, R125, R141, R145, R147, R151. -/
def Obligations.InvEveryStep : Prop :=
  ∀ s t : State, Inv s → step s = .next t → Inv t

/-- R52, R100, R186: from every state that meets the invariant the machine has a next state; the model's
faults and refusals are not reached. -/
def Obligations.EveryStepAnswersNext : Prop :=
  ∀ s : State, Inv s → ∃ t, step s = .next t

/-- R24, R27: BUSY = 1 exactly when UPC is not IDLE, kept by every step of the machine. -/
def Obligations.BusyExactlyWhenNotIdle : Prop :=
  ∀ s t : State, (s.upc = .idle ↔ s.busy = false) → step s = .next t →
    (t.upc = .idle ↔ t.busy = false)

/-- R179, R108: at each of the three wait places both lines are released, and a command that ends there,
by BUS_STUCK or by the end of its `stop()`, leaves both lines released. -/
def Obligations.WaitsAndEndsReleaseTheBus : Prop :=
  ∀ (s t : State) (i : Instr), Inv s → s.busy = true → decode s.cmdr = .ok i →
    exec i s = .next t →
    (∃ c, s.upc = .stop c .p5) ∨ s.upc = .start .s3 ∨ (∃ site b, s.upc = .send site b .a3) →
    bothReleased s ∧ (t.busy = false → bothReleased t)

/-! ### Errors -/

/-- R182, R175, R184: while a command runs no other error than its own can end it. RELEASE, DRIVE_LOW,
READ_LINE and RECEIVE_BYTE end with OK only; START, STOP and SEND_BYTE with OK or BUS_STUCK; a NAK that
SEND_BYTE samples is ACK = 0 and no error; READ never ends with NO_ACK_DATA; and BUS_STUCK only where
WAIT_LIMIT is set. -/
def Obligations.ErrorsOfEachCommand : Prop :=
  ∀ (s t : State) (i : Instr), Inv s → s.busy = true → decode s.cmdr = .ok i →
    exec i s = .next t →
    t.err ≠ .illegalCmd ∧ (t.err = .busStuck → s.cfg.waitLimit ≠ none) ∧
    match i with
    | .release _ => t.err = .ok
    | .driveLow _ => t.err = .ok
    | .readLine _ => t.err = .ok
    | .receiveByte _ => t.err = .ok
    | .start => t.err = .ok ∨ t.err = .busStuck
    | .stop => t.err = .ok ∨ t.err = .busStuck
    | .sendByte _ => (t.err = .ok ∨ t.err = .busStuck) ∧
        ((∃ site b, s.upc = .send site b .a4) → (sample .sda s).1 = .high →
          t.ack = false ∧ t.err = .ok)
    | .write _ _ => True
    | .read _ _ _ => t.err ≠ .noAckData

/-- R187, R210, R194: an idle engine keeps its error code, its results and its lines until the host
issues a command or resets the block; the host's own writes to TXBUF apart. -/
def Obligations.IdleKeepsResults : Prop :=
  ∀ s t : State, s.busy = false → step s = .next t →
    (∀ w rest, s.host ≠ .write 0 w :: rest) → (∀ rest, s.host ≠ .reset :: rest) →
    t.busy = false ∧ t.err = s.err ∧ t.ack = s.ack ∧ t.lvl = s.lvl ∧ t.data = s.data ∧
      t.nwritten = s.nwritten ∧ t.nread = s.nread ∧ t.outScl = s.outScl ∧ t.outSda = s.outSda ∧
      ∀ k < 256, s.cfg.bufCap ≤ 255 → readByte t (0x200 + k) = readByte s (0x200 + k)

/-! ### Frames -/

/-- Frame of RELEASE, DRIVE_LOW and READ_LINE, accept included (R94, R98, R99): RELEASE and DRIVE_LOW
change OUT of their line only, READ_LINE the flag LVL only; memory and every other register stay. -/
def Obligations.LineDriverFrame : Prop :=
  ∀ (s t : State) (l : Line) (i : Instr),
    i = .release l ∨ i = .driveLow l ∨ i = .readLine l → exec i s = .next t →
    t.cfg = s.cfg ∧ t.acc = s.acc ∧ t.data = s.data ∧ t.bitcnt = s.bitcnt ∧ t.idx = s.idx ∧
    t.waitcnt = s.waitcnt ∧ t.nwritten = s.nwritten ∧ t.nread = s.nread ∧ t.ack = s.ack ∧
    t.host = s.host ∧ t.epoch = s.epoch ∧ (∀ a, readByte t a = readByte s a) ∧
    (∀ k, k ≠ l → t.out k = s.out k) ∧
    (i = .readLine l → t.out l = s.out l) ∧
    (i ≠ .readLine l →
      t.lvl = s.lvl ∧ t.sclIn = s.sclIn ∧ t.sdaIn = s.sdaIn ∧ t.draws = s.draws) ∧
    (s.busy = true → t.cmdr = s.cmdr ∧ t.err = s.err) ∧
    (s.busy = false → t.lvl = s.lvl ∧ t.out l = s.out l)

/-- Frame of START and STOP, accept included (R106, R109): they change OUT and WAITCNT; memory and every
other register stay, ERR but for BUS_STUCK. -/
def Obligations.ConditionFrame : Prop :=
  ∀ (s t : State) (i : Instr), i = .start ∨ i = .stop → exec i s = .next t →
    t.cfg = s.cfg ∧ t.acc = s.acc ∧ t.data = s.data ∧ t.bitcnt = s.bitcnt ∧ t.idx = s.idx ∧
    t.nwritten = s.nwritten ∧ t.nread = s.nread ∧ t.ack = s.ack ∧ t.lvl = s.lvl ∧
    t.host = s.host ∧ t.epoch = s.epoch ∧ (∀ a, readByte t a = readByte s a) ∧
    (s.busy = true → t.cmdr = s.cmdr ∧ (t.err = s.err ∨ t.err = .busStuck)) ∧
    (s.busy = false → t.outScl = s.outScl ∧ t.outSda = s.outSda ∧ t.waitcnt = s.waitcnt)

/-- Frame of SEND_BYTE and RECEIVE_BYTE, accept included (R121, R127): SEND_BYTE writes the flag ACK and
never DATA or ACC, RECEIVE_BYTE writes DATA and never ACK, WAITCNT or ERR; memory and every other
register stay. -/
def Obligations.TransceiverFrame : Prop :=
  ∀ (s t : State) (i : Instr), (∃ b, i = .sendByte b) ∨ (∃ a, i = .receiveByte a) →
    exec i s = .next t →
    t.cfg = s.cfg ∧ t.idx = s.idx ∧ t.nwritten = s.nwritten ∧ t.nread = s.nread ∧ t.lvl = s.lvl ∧
    t.host = s.host ∧ t.epoch = s.epoch ∧ (∀ a, readByte t a = readByte s a) ∧
    (s.busy = true → t.cmdr = s.cmdr) ∧
    ((∃ b, i = .sendByte b) → t.data = s.data ∧ t.acc = s.acc ∧
      (s.busy = true → t.err = s.err ∨ t.err = .busStuck)) ∧
    ((∃ a, i = .receiveByte a) → t.ack = s.ack ∧ t.waitcnt = s.waitcnt ∧ t.sclIn = s.sclIn ∧
      (s.busy = true → t.err = s.err)) ∧
    (s.busy = false → t.outScl = s.outScl ∧ t.outSda = s.outSda ∧ t.ack = s.ack ∧ t.data = s.data)

/-- Frame of WRITE, accept included (R142, R50): memory (TXBUF and RXBUF), DATA, ACC, NREAD and LVL are
never changed; NWRITTEN only at the accept and at an acknowledged data byte. -/
def Obligations.WriteFrame : Prop :=
  ∀ (s t : State) (address : BitVec 7) (n : Byte), exec (.write address n) s = .next t →
    t.cfg = s.cfg ∧ t.acc = s.acc ∧ t.data = s.data ∧ t.nread = s.nread ∧ t.lvl = s.lvl ∧
    t.host = s.host ∧ t.epoch = s.epoch ∧ (∀ a, readByte t a = readByte s a) ∧
    (s.busy = true → t.cmdr = s.cmdr ∧
      (t.err = s.err ∨ t.err = .busStuck ∨ t.err = .noAckAddress ∨ t.err = .noAckData) ∧
      (t.nwritten = s.nwritten ∨
        (∃ b, s.upc = .send .data b (.a5 true)) ∧ t.nwritten = s.idx + 1)) ∧
    (s.busy = false → t.outScl = s.outScl ∧ t.outSda = s.outSda ∧ t.ack = s.ack ∧ t.idx = s.idx)

/-- Frame of READ, accept included (R146, R51): the one byte stored is RXBUF at IDX, at the end of a
receive_byte, and every other byte of memory stays; NWRITTEN and LVL are never changed; DATA and NREAD
only at that end (NREAD also at the accept); a running READ raises BUS_STUCK and NO_ACK_ADDRESS only. -/
def Obligations.ReadFrame : Prop :=
  ∀ (s t : State) (address : BitVec 7) (c : Byte) (nostop : Bool),
    exec (.read address c nostop) s = .next t →
    t.cfg = s.cfg ∧ t.nwritten = s.nwritten ∧ t.lvl = s.lvl ∧ t.host = s.host ∧
    t.epoch = s.epoch ∧
    (∀ a, (a ≠ rxBase + s.idx.toNat ∨ s.busy = false ∨ ∀ k, s.upc ≠ .recv k .k7) →
      readByte t a = readByte s a) ∧
    (s.busy = true → t.cmdr = s.cmdr ∧
      (t.err = s.err ∨ t.err = .busStuck ∨ t.err = .noAckAddress)) ∧
    (s.busy = true → (∀ k, s.upc ≠ .recv k .k7) → t.data = s.data ∧ t.nread = s.nread) ∧
    (s.busy = false → t.outScl = s.outScl ∧ t.outSda = s.outSda ∧ t.ack = s.ack ∧ t.data = s.data ∧
      t.idx = s.idx ∧ t.acc = s.acc)

/-- R28, D33: which steps write the flags and results. In every step but a reset, LVL
changes only at READ_LINE's sample, ACK only at A4 of a `send_byte`, DATA only at K7 of a
`receive_byte`, and a byte of RXBUF only at K7 of a READ, the one IDX names. -/
def Obligations.WritersOfTheFlags : Prop :=
  ∀ s t : State, step s = .next t → (∀ rest, s.host ≠ .reset :: rest) →
    (t.lvl ≠ s.lvl → s.busy = true ∧ s.upc = .line ∧ ∃ l, decode s.cmdr = .ok (.readLine l)) ∧
    (t.ack ≠ s.ack → s.busy = true ∧ ∃ site b, s.upc = .send site b .a4) ∧
    (t.data ≠ s.data → s.busy = true ∧ ∃ a, s.upc = .recv a .k7) ∧
    ∀ k < 256, s.cfg.bufCap ≤ 255 → readByte t (rxBase + k) ≠ readByte s (rxBase + k) →
      s.busy = true ∧ k = s.idx.toNat ∧ (∃ a, s.upc = .recv a .k7) ∧
        ∃ address c nostop, decode s.cmdr = .ok (.read address c nostop)

/-! ### Arithmetic, the wire, the rest -/

/-- R140: the address byte is the address with the direction bit below it; nothing overflows; the rule's
examples. -/
def Obligations.AddressByte : Prop :=
  ∀ (a : BitVec 7) (isRead : Bool),
    addrByte a isRead = a ++ BitVec.ofBool isRead ∧
    addrByte a isRead = (a.setWidth 8 <<< 1) ||| (if isRead then 1 else 0) ∧
    (addrByte a isRead).toNat = 2 * a.toNat + isRead.toNat ∧
    addrByte 0x50 false = 0xA0 ∧ addrByte 0x50 true = 0xA1 ∧ addrByte 0x00 false = 0x00 ∧
    addrByte 0x00 true = 0x01 ∧ addrByte 0x7F false = 0xFE ∧ addrByte 0x7F true = 0xFF

/-- R124, T1: an observer of the wire of SEND_BYTE issued with the clock driven low, the slave stretching
the ninth pulse for `n` polls and answering `v`, reads the byte b, bit 7 first, and then the acknowledge;
no START or STOP, so the data line moves only while the clock is low. Logs 3, 12 and 24 as in
SendByteCompletes. -/
def Obligations.WireShowsSentByte : Prop :=
  ∀ (s : State) (b : Byte) (n : Nat) (v : Level) (c d : List Level), s.busy = false →
    s.outScl = .drivenLow → mayFail s.cfg n →
    s.sclIn = List.replicate n .low ++ .high :: c → s.sdaIn = v :: d →
    wire s.outScl s.outSda (execTrace (.sendByte b) (n + 46) s)
      = [.byte b, if v = .low then .ack else .nak]

/-- R129: an observer of the wire of RECEIVE_BYTE issued with the clock driven low reads the byte the
environment presents and then the engine's own acknowledge: ACK if a = 1, else NAK. Logs 3, 12 and 24 as
in ReceiveByteCompletes. -/
def Obligations.WireShowsReceivedByte : Prop :=
  ∀ (s : State) (a : Bool) (b : Byte) (d : List Level), s.busy = false → s.outScl = .drivenLow →
    s.sdaIn = byteLevels b ++ d →
    wire s.outScl s.outSda (execTrace (.receiveByte a) (if a then 49 else 48) s)
      = [.byte b, if a then .ack else .nak]

/-- R142, T2, C2, V4.5: the wire of a WRITE of n >= 1 bytes, issued with both lines released to a slave
that acknowledges every byte and stretches no clock. With P_STOP_PREDRIVE: START, the address byte,
TXBUF[0..n-1] in order, each acknowledged, STOP. With the letter of the source's `stop()`
(P_STOP_PREDRIVE = false): the same without any STOP. The parameter is log 15 (DESIGN CHOICE); logs 3, 12,
14 and 24 as in WriteCompletes. -/
def Obligations.WireShowsWholeWrite : Prop :=
  ∀ (s : State) (address : BitVec 7) (n : Byte) (c d : List Level), s.busy = false →
    bothReleased s → n ≠ 0 → n.toNat ≤ s.cfg.bufCap → mayFail s.cfg 0 →
    s.sclIn = List.replicate (n.toNat + 3) .high ++ c →
    s.sdaIn = .high :: (List.replicate (n.toNat + 1) .low ++ .high :: d) →
    wire s.outScl s.outSda (execTrace (.write address n) (53 + 45 * n.toNat + stopOps s.cfg) s)
      = [.start, .byte (addrByte address false), .ack] ++
        (txBytes s n.toNat).flatMap (fun b => [.byte b, .ack]) ++
        (if s.cfg.stopPredrive then [.stop] else [])

/-- R95, R216: the holds of the runs of START, STOP, SEND_BYTE and RECEIVE_BYTE, and so the least time each
takes: 2, 2, 16 and 19 times T_BIT, however many polls of its wait fail. T_BIT's unit is log 6, hold
counts log 19; logs 3, 12, 14 and 15 as in the completion statements. -/
def Obligations.LeastDurations : Prop :=
  ∀ s : State, s.busy = false →
    (∀ (ps : List (Level × Level)) (c d : List Level), allFail ps → mayFail s.cfg ps.length →
      s.sclIn = ps.map Prod.fst ++ .high :: c → s.sdaIn = ps.map Prod.snd ++ .high :: d →
      minDuration s.cfg (execTrace .start (ps.length + 8) s) = 2 * s.cfg.tBit ∧
      minDuration s.cfg (execTrace .stop (stopOps s.cfg + ps.length + 1) s) = 2 * s.cfg.tBit) ∧
    (∀ (b : Byte) (n : Nat) (v : Level) (c d : List Level), mayFail s.cfg n →
      s.sclIn = List.replicate n .low ++ .high :: c → s.sdaIn = v :: d →
      minDuration s.cfg (execTrace (.sendByte b) (n + 46) s) = 16 * s.cfg.tBit) ∧
    ∀ (a : Bool) (b : Byte) (d : List Level), s.sdaIn = byteLevels b ++ d →
      minDuration s.cfg (execTrace (.receiveByte a) (if a then 49 else 48) s) = 19 * s.cfg.tBit

/-- R40 ("never read before written"), log 5: two idle states that differ only in CMDR, ACC, BITCNT, IDX
and WAITCNT look alike to the host and on the wires after any number of steps, and leave the same
events: the values the model gives these registers at reset (DESIGN CHOICE, log 5) show nowhere. -/
def Obligations.WorkingRegistersNeverShow : Prop :=
  ∀ (m : Nat) (s t : State) (w : Word) (a : Byte) (b : BitVec 4) (k : Byte) (n : Nat),
    Inv s → s.busy = false → Host.Core.run Sys2Proof.core m s = .next t →
    ∃ u, Host.Core.run Sys2Proof.core m (withWorking w a b k n s) = .next u ∧ looksAlike t u ∧
      stepEvents t = stepEvents u

/-- R165 to R169 (the annex, host-side): whatever its READ did, a request that has ended leaves the cursor
at 0, `available()` at NREAD and a facade in form; successive `read_next()` calls give RXBUF in receipt
order, each taking one off `available()`; past the end a call gives EMPTY_SENTINEL, whatever it is, and
changes nothing. That the facade is a record beside the block is the model's choice (log 22). -/
def Obligations.FacadeReadsInReceiptOrder : Prop :=
  ∀ (address : BitVec 7) (count : Byte) (sendStop : Bool) (patience : Nat) (f g : Facade) (s u : State),
    f.wf s.cfg → request address count sendStop patience f s = .next (some g, u) →
    u.busy = false ∧ g.cursor = 0 ∧ g.available = u.nread.toNat ∧
    (u.nread.toNat ≤ s.cfg.facadeCap → g.wf s.cfg) ∧
    (∀ h : Facade, h.buf = g.buf → h.length = g.length → h.cursor < h.length →
      h.readNext s.cfg
        = (.byte (readByte u (rxBase + h.cursor)), { h with cursor := h.cursor + 1 }) ∧
      h.available = (h.readNext s.cfg).2.available + 1) ∧
    ∀ h : Facade, h.length ≤ h.cursor →
      h.readNext s.cfg = (s.cfg.emptySentinel, h) ∧ h.available = 0
end

