-- ==== Sys2Proof/Laws/Encoding.lean ====
section
/-! SUPPORT. The bits and the fields of an assembled command word (R70, R71). -/

namespace Sys2Proof

/-- Every bit of a command word, by its number (R70). -/
theorem assemble_getLsbD (op : BitVec 4) (f : Bool) (n : Byte) (a : BitVec 7) (i : Nat) :
    (assemble op f n a).getLsbD i =
      if i < 7 then a.getLsbD i
      else if i < 8 then false
      else if i < 16 then n.getLsbD (i - 8)
      else if i < 17 then f
      else if i < 28 then false
      else op.getLsbD (i - 28) := by
  have h : (assemble op f n a).getLsbD i =
      (((((op ++ (0#11)) ++ BitVec.ofBool f) ++ n) ++ (0#1)) ++ a).getLsbD i := rfl
  rw [h]
  simp only [BitVec.getLsbD_append, BitVec.getLsbD_zero]
  by_cases h1 : i < 7
  · simp [h1]
  by_cases h2 : i < 8
  · obtain rfl : i = 7 := by omega
    simp
  by_cases h3 : i < 16
  · have e1 : i - 7 ≠ 0 := by omega
    have e2 : i - 7 - 1 = i - 8 := by omega
    have e3 : i - 8 < 8 := by omega
    have e4 : ¬ i - 7 < 1 := by omega
    simp [*]
  by_cases h4 : i < 17
  · obtain rfl : i = 16 := by omega
    simp
  have e1 : ¬ i - 7 < 1 := by omega
  have e2 : ¬ i - 7 - 1 < 8 := by omega
  have e3 : ¬ i - 7 - 1 - 8 < 1 := by omega
  by_cases h5 : i < 28
  · have e4 : i - 7 - 1 - 8 - 1 < 11 := by omega
    simp [h1, h2, h3, h4, h5, e1, e2, e3, e4]
  · have e4 : ¬ i - 7 - 1 - 8 - 1 < 11 := by omega
    have e5 : i - 7 - 1 - 8 - 1 - 11 = i - 28 := by omega
    simp [h1, h2, h3, h4, h5, e1, e2, e3, e4, e5]

@[simp] theorem opField_assemble (op : BitVec 4) (f : Bool) (n : Byte) (a : BitVec 7) :
    opField (assemble op f n a) = op := by
  apply BitVec.eq_of_getLsbD_eq
  intro i hi
  simp only [opField, BitVec.getLsbD_extractLsb', assemble_getLsbD]
  interval_cases i <;> simp

@[simp] theorem z1Field_assemble (op : BitVec 4) (f : Bool) (n : Byte) (a : BitVec 7) :
    z1Field (assemble op f n a) = 0 := by
  apply BitVec.eq_of_getLsbD_eq
  intro i hi
  simp only [z1Field, BitVec.getLsbD_extractLsb', assemble_getLsbD]
  interval_cases i <;> simp

@[simp] theorem nField_assemble (op : BitVec 4) (f : Bool) (n : Byte) (a : BitVec 7) :
    nField (assemble op f n a) = n := by
  apply BitVec.eq_of_getLsbD_eq
  intro i hi
  simp only [nField, BitVec.getLsbD_extractLsb', assemble_getLsbD]
  interval_cases i <;> simp

@[simp] theorem addrField_assemble (op : BitVec 4) (f : Bool) (n : Byte) (a : BitVec 7) :
    addrField (assemble op f n a) = a := by
  apply BitVec.eq_of_getLsbD_eq
  intro i hi
  simp only [addrField, BitVec.getLsbD_extractLsb', assemble_getLsbD]
  interval_cases i <;> simp

@[simp] theorem fField_assemble (op : BitVec 4) (f : Bool) (n : Byte) (a : BitVec 7) :
    fField (assemble op f n a) = f := by
  rw [fField, assemble_getLsbD]
  simp

@[simp] theorem z0Field_assemble (op : BitVec 4) (f : Bool) (n : Byte) (a : BitVec 7) :
    z0Field (assemble op f n a) = false := by
  rw [z0Field, assemble_getLsbD]
  simp

/-- A word whose reserved fields are 0 is put together from its own fields (R70, R71). -/
theorem assemble_fields {w : Word} (h1 : z1Field w = 0) (h0 : z0Field w = false) :
    assemble (opField w) (fField w) (nField w) (addrField w) = w := by
  apply BitVec.eq_of_getLsbD_eq
  intro i hi
  rw [assemble_getLsbD]
  simp only [opField, nField, addrField, fField, BitVec.getLsbD_extractLsb']
  split_ifs with a1 a2 a3 a4 a5
  · simp [a1]
  · obtain rfl : i = 7 := by omega
    exact h0.symm
  · have e : i - 8 < 8 := by omega
    simp only [e, decide_true, Bool.true_and]
    congr 1
    omega
  · obtain rfl : i = 16 := by omega
    rfl
  · have h : (z1Field w).getLsbD (i - 17) = false := by simp [h1]
    have e1 : i - 17 < 11 := by omega
    have e2 : 17 + (i - 17) = i := by omega
    simp only [z1Field, BitVec.getLsbD_extractLsb', e1, e2, decide_true, Bool.true_and] at h
    exact h.symm
  · have e1 : i - 28 < 4 := by omega
    have e2 : 28 + (i - 28) = i := by omega
    simp [e1, e2]

/-- The line field is read back (R74). -/
@[simp] theorem lineOfBit_bitOfLine (l : Line) : lineOfBit (bitOfLine l) = l := by
  cases l <;> rfl

@[simp] theorem bitOfLine_lineOfBit (b : Bool) : bitOfLine (lineOfBit b) = b := by
  cases b <;> rfl

end Sys2Proof
end

