-- ==== Sys2Proof/Laws/Memory.lean ====
section
/-! SUPPORT. The buffers' memory: every operation keeps the canonical form, a read after a write to the
same place gives the value written, and a write leaves every other place alone. -/

namespace Sys2Proof.Machine

/-- Every address a write leaves listed was listed, or is the one written. -/
theorem Memory.mem_write {m : Memory} {a : Nat} {v : Byte} {c : Host.Cell}
    (h : c ∈ Memory.write m a v) : c = (a, v) ∨ c ∈ m := by
  induction m with
  | nil => simpa [Memory.write] using h
  | cons x m ih =>
    unfold Memory.write at h
    split at h
    · simpa using h
    · split at h
      · rcases List.mem_cons.1 h with h | h
        · exact .inl h
        · exact .inr (List.mem_cons_of_mem _ h)
      · rcases List.mem_cons.1 h with h | h
        · exact .inr (h ▸ List.mem_cons_self ..)
        · exact (ih h).imp id (List.mem_cons_of_mem _)

/-- A write keeps the canonical form. -/
theorem Memory.wf_write {m : Memory} (h : m.wf) (a : Nat) (v : Byte) : (Memory.write m a v).wf := by
  induction m with
  | nil => simp [Memory.write]
  | cons x m ih =>
    obtain ⟨hx, hm⟩ := List.pairwise_cons.1 h
    unfold Memory.write
    split
    · rename_i hlt
      refine List.pairwise_cons.2 ⟨?_, h⟩
      intro c hc
      rcases List.mem_cons.1 hc with rfl | hc
      · exact hlt
      · exact Nat.lt_trans hlt (hx c hc)
    · split
      · rename_i heq
        exact List.pairwise_cons.2 ⟨fun c hc => heq ▸ hx c hc, hm⟩
      · refine List.pairwise_cons.2 ⟨?_, ih hm⟩
        intro c hc
        rcases Memory.mem_write hc with rfl | hc
        · show x.1 < a
          omega
        · exact hx c hc

/-- The lookup of the place written. -/
@[simp] theorem Memory.lookup_write_same (m : Memory) (a : Nat) (v : Byte) :
    (Memory.write m a v).lookup a = some v := by
  induction m with
  | nil => simp [Memory.write, Memory.lookup]
  | cons x m ih =>
    unfold Memory.write
    split
    · simp [Memory.lookup]
    · split
      · simp [Memory.lookup]
      · rename_i hne
        simp [Memory.lookup, Ne.symm hne, ih]

/-- The lookup of every other place. -/
theorem Memory.lookup_write_other (m : Memory) {a b : Nat} (h : b ≠ a) (v : Byte) :
    (Memory.write m a v).lookup b = m.lookup b := by
  induction m with
  | nil => simp [Memory.write, Memory.lookup, Ne.symm h]
  | cons x m ih =>
    unfold Memory.write
    split
    · simp [Memory.lookup, Ne.symm h]
    · split
      · rename_i heq
        subst heq
        simp [Memory.lookup, Ne.symm h]
      · simp [Memory.lookup, ih]

/-- A read after a write to the same place (R50, R51). -/
@[simp] theorem readByte_writeByte_same (s : State) (a : Nat) (v : Byte) :
    readByte (writeByte a v s) a = v := by
  simp [readByte, writeByte]

/-- A write leaves every other byte alone. -/
theorem readByte_writeByte_other (s : State) {a b : Nat} (h : b ≠ a) (v : Byte) :
    readByte (writeByte a v s) b = readByte s b := by
  simp [readByte, writeByte, Memory.lookup_write_other _ h]

/-- A read of a byte depends on memory and on the resets only. -/
theorem readByte_congr {s t : State} (hm : t.mem = s.mem) (he : t.epoch = s.epoch) (a : Nat) :
    readByte t a = readByte s a := by
  simp [readByte, hm, he]

/-- What a store to RXBUF can do. -/
theorem rxStore_eq_some {k : Nat} {v : Byte} {s t : State} (h : rxStore k v s = some t) :
    k < s.cfg.bufCap ∧ t = writeByte (rxBase + k) v s := by
  unfold rxStore at h
  split at h
  · rename_i hk
    exact ⟨hk, (Option.some.inj h).symm⟩
  · exact absurd h (by simp)

/-- A store to RXBUF inside the buffer is done. -/
theorem rxStore_of_lt {k : Nat} {s : State} (h : k < s.cfg.bufCap) (v : Byte) :
    rxStore k v s = some (writeByte (rxBase + k) v s) := by
  simp [rxStore, h]

/-- The memory of a reset block is canonical. -/
theorem Memory.wf_initial (p : Params) : (State.initial p).mem.wf := List.Pairwise.nil

end Sys2Proof.Machine
end

