-- ==== Sys2Proof/Laws/State.lean ====
section
/-! SUPPORT. What each named update leaves in each field of State: one lemma per field and update, so that
no proof unfolds a record update. -/

namespace Sys2Proof.Machine

/-! ### State.goto -/

@[simp] theorem State.goto_cfg (u : Upc) (s : State) :
    (s.goto u).cfg = s.cfg := rfl
@[simp] theorem State.goto_outScl (u : Upc) (s : State) :
    (s.goto u).outScl = s.outScl := rfl
@[simp] theorem State.goto_outSda (u : Upc) (s : State) :
    (s.goto u).outSda = s.outSda := rfl
@[simp] theorem State.goto_cmdr (u : Upc) (s : State) :
    (s.goto u).cmdr = s.cmdr := rfl
@[simp] theorem State.goto_acc (u : Upc) (s : State) :
    (s.goto u).acc = s.acc := rfl
@[simp] theorem State.goto_data (u : Upc) (s : State) :
    (s.goto u).data = s.data := rfl
@[simp] theorem State.goto_bitcnt (u : Upc) (s : State) :
    (s.goto u).bitcnt = s.bitcnt := rfl
@[simp] theorem State.goto_idx (u : Upc) (s : State) :
    (s.goto u).idx = s.idx := rfl
@[simp] theorem State.goto_waitcnt (u : Upc) (s : State) :
    (s.goto u).waitcnt = s.waitcnt := rfl
@[simp] theorem State.goto_nwritten (u : Upc) (s : State) :
    (s.goto u).nwritten = s.nwritten := rfl
@[simp] theorem State.goto_nread (u : Upc) (s : State) :
    (s.goto u).nread = s.nread := rfl
@[simp] theorem State.goto_busy (u : Upc) (s : State) :
    (s.goto u).busy = s.busy := rfl
@[simp] theorem State.goto_ack (u : Upc) (s : State) :
    (s.goto u).ack = s.ack := rfl
@[simp] theorem State.goto_lvl (u : Upc) (s : State) :
    (s.goto u).lvl = s.lvl := rfl
@[simp] theorem State.goto_err (u : Upc) (s : State) :
    (s.goto u).err = s.err := rfl
@[simp] theorem State.goto_upc (u : Upc) (s : State) :
    (s.goto u).upc = u := rfl
@[simp] theorem State.goto_mem (u : Upc) (s : State) :
    (s.goto u).mem = s.mem := rfl
@[simp] theorem State.goto_host (u : Upc) (s : State) :
    (s.goto u).host = s.host := rfl
@[simp] theorem State.goto_sclIn (u : Upc) (s : State) :
    (s.goto u).sclIn = s.sclIn := rfl
@[simp] theorem State.goto_sdaIn (u : Upc) (s : State) :
    (s.goto u).sdaIn = s.sdaIn := rfl
@[simp] theorem State.goto_draws (u : Upc) (s : State) :
    (s.goto u).draws = s.draws := rfl
@[simp] theorem State.goto_epoch (u : Upc) (s : State) :
    (s.goto u).epoch = s.epoch := rfl

/-! ### State.restartWait -/

@[simp] theorem State.restartWait_cfg  (s : State) :
    (s.restartWait).cfg = s.cfg := rfl
@[simp] theorem State.restartWait_outScl  (s : State) :
    (s.restartWait).outScl = s.outScl := rfl
@[simp] theorem State.restartWait_outSda  (s : State) :
    (s.restartWait).outSda = s.outSda := rfl
@[simp] theorem State.restartWait_cmdr  (s : State) :
    (s.restartWait).cmdr = s.cmdr := rfl
@[simp] theorem State.restartWait_acc  (s : State) :
    (s.restartWait).acc = s.acc := rfl
@[simp] theorem State.restartWait_data  (s : State) :
    (s.restartWait).data = s.data := rfl
@[simp] theorem State.restartWait_bitcnt  (s : State) :
    (s.restartWait).bitcnt = s.bitcnt := rfl
@[simp] theorem State.restartWait_idx  (s : State) :
    (s.restartWait).idx = s.idx := rfl
@[simp] theorem State.restartWait_waitcnt  (s : State) :
    (s.restartWait).waitcnt = 0 := rfl
@[simp] theorem State.restartWait_nwritten  (s : State) :
    (s.restartWait).nwritten = s.nwritten := rfl
@[simp] theorem State.restartWait_nread  (s : State) :
    (s.restartWait).nread = s.nread := rfl
@[simp] theorem State.restartWait_busy  (s : State) :
    (s.restartWait).busy = s.busy := rfl
@[simp] theorem State.restartWait_ack  (s : State) :
    (s.restartWait).ack = s.ack := rfl
@[simp] theorem State.restartWait_lvl  (s : State) :
    (s.restartWait).lvl = s.lvl := rfl
@[simp] theorem State.restartWait_err  (s : State) :
    (s.restartWait).err = s.err := rfl
@[simp] theorem State.restartWait_upc  (s : State) :
    (s.restartWait).upc = s.upc := rfl
@[simp] theorem State.restartWait_mem  (s : State) :
    (s.restartWait).mem = s.mem := rfl
@[simp] theorem State.restartWait_host  (s : State) :
    (s.restartWait).host = s.host := rfl
@[simp] theorem State.restartWait_sclIn  (s : State) :
    (s.restartWait).sclIn = s.sclIn := rfl
@[simp] theorem State.restartWait_sdaIn  (s : State) :
    (s.restartWait).sdaIn = s.sdaIn := rfl
@[simp] theorem State.restartWait_draws  (s : State) :
    (s.restartWait).draws = s.draws := rfl
@[simp] theorem State.restartWait_epoch  (s : State) :
    (s.restartWait).epoch = s.epoch := rfl

/-! ### State.setAck -/

@[simp] theorem State.setAck_cfg (a : Bool) (s : State) :
    (s.setAck a).cfg = s.cfg := rfl
@[simp] theorem State.setAck_outScl (a : Bool) (s : State) :
    (s.setAck a).outScl = s.outScl := rfl
@[simp] theorem State.setAck_outSda (a : Bool) (s : State) :
    (s.setAck a).outSda = s.outSda := rfl
@[simp] theorem State.setAck_cmdr (a : Bool) (s : State) :
    (s.setAck a).cmdr = s.cmdr := rfl
@[simp] theorem State.setAck_acc (a : Bool) (s : State) :
    (s.setAck a).acc = s.acc := rfl
@[simp] theorem State.setAck_data (a : Bool) (s : State) :
    (s.setAck a).data = s.data := rfl
@[simp] theorem State.setAck_bitcnt (a : Bool) (s : State) :
    (s.setAck a).bitcnt = s.bitcnt := rfl
@[simp] theorem State.setAck_idx (a : Bool) (s : State) :
    (s.setAck a).idx = s.idx := rfl
@[simp] theorem State.setAck_waitcnt (a : Bool) (s : State) :
    (s.setAck a).waitcnt = s.waitcnt := rfl
@[simp] theorem State.setAck_nwritten (a : Bool) (s : State) :
    (s.setAck a).nwritten = s.nwritten := rfl
@[simp] theorem State.setAck_nread (a : Bool) (s : State) :
    (s.setAck a).nread = s.nread := rfl
@[simp] theorem State.setAck_busy (a : Bool) (s : State) :
    (s.setAck a).busy = s.busy := rfl
@[simp] theorem State.setAck_ack (a : Bool) (s : State) :
    (s.setAck a).ack = a := rfl
@[simp] theorem State.setAck_lvl (a : Bool) (s : State) :
    (s.setAck a).lvl = s.lvl := rfl
@[simp] theorem State.setAck_err (a : Bool) (s : State) :
    (s.setAck a).err = s.err := rfl
@[simp] theorem State.setAck_upc (a : Bool) (s : State) :
    (s.setAck a).upc = s.upc := rfl
@[simp] theorem State.setAck_mem (a : Bool) (s : State) :
    (s.setAck a).mem = s.mem := rfl
@[simp] theorem State.setAck_host (a : Bool) (s : State) :
    (s.setAck a).host = s.host := rfl
@[simp] theorem State.setAck_sclIn (a : Bool) (s : State) :
    (s.setAck a).sclIn = s.sclIn := rfl
@[simp] theorem State.setAck_sdaIn (a : Bool) (s : State) :
    (s.setAck a).sdaIn = s.sdaIn := rfl
@[simp] theorem State.setAck_draws (a : Bool) (s : State) :
    (s.setAck a).draws = s.draws := rfl
@[simp] theorem State.setAck_epoch (a : Bool) (s : State) :
    (s.setAck a).epoch = s.epoch := rfl

/-! ### State.setLvl -/

@[simp] theorem State.setLvl_cfg (v : Level) (s : State) :
    (s.setLvl v).cfg = s.cfg := rfl
@[simp] theorem State.setLvl_outScl (v : Level) (s : State) :
    (s.setLvl v).outScl = s.outScl := rfl
@[simp] theorem State.setLvl_outSda (v : Level) (s : State) :
    (s.setLvl v).outSda = s.outSda := rfl
@[simp] theorem State.setLvl_cmdr (v : Level) (s : State) :
    (s.setLvl v).cmdr = s.cmdr := rfl
@[simp] theorem State.setLvl_acc (v : Level) (s : State) :
    (s.setLvl v).acc = s.acc := rfl
@[simp] theorem State.setLvl_data (v : Level) (s : State) :
    (s.setLvl v).data = s.data := rfl
@[simp] theorem State.setLvl_bitcnt (v : Level) (s : State) :
    (s.setLvl v).bitcnt = s.bitcnt := rfl
@[simp] theorem State.setLvl_idx (v : Level) (s : State) :
    (s.setLvl v).idx = s.idx := rfl
@[simp] theorem State.setLvl_waitcnt (v : Level) (s : State) :
    (s.setLvl v).waitcnt = s.waitcnt := rfl
@[simp] theorem State.setLvl_nwritten (v : Level) (s : State) :
    (s.setLvl v).nwritten = s.nwritten := rfl
@[simp] theorem State.setLvl_nread (v : Level) (s : State) :
    (s.setLvl v).nread = s.nread := rfl
@[simp] theorem State.setLvl_busy (v : Level) (s : State) :
    (s.setLvl v).busy = s.busy := rfl
@[simp] theorem State.setLvl_ack (v : Level) (s : State) :
    (s.setLvl v).ack = s.ack := rfl
@[simp] theorem State.setLvl_lvl (v : Level) (s : State) :
    (s.setLvl v).lvl = levelBit v := rfl
@[simp] theorem State.setLvl_err (v : Level) (s : State) :
    (s.setLvl v).err = s.err := rfl
@[simp] theorem State.setLvl_upc (v : Level) (s : State) :
    (s.setLvl v).upc = s.upc := rfl
@[simp] theorem State.setLvl_mem (v : Level) (s : State) :
    (s.setLvl v).mem = s.mem := rfl
@[simp] theorem State.setLvl_host (v : Level) (s : State) :
    (s.setLvl v).host = s.host := rfl
@[simp] theorem State.setLvl_sclIn (v : Level) (s : State) :
    (s.setLvl v).sclIn = s.sclIn := rfl
@[simp] theorem State.setLvl_sdaIn (v : Level) (s : State) :
    (s.setLvl v).sdaIn = s.sdaIn := rfl
@[simp] theorem State.setLvl_draws (v : Level) (s : State) :
    (s.setLvl v).draws = s.draws := rfl
@[simp] theorem State.setLvl_epoch (v : Level) (s : State) :
    (s.setLvl v).epoch = s.epoch := rfl

/-! ### writeByte -/

@[simp] theorem writeByte_cfg (a : Nat) (v : Byte) (s : State) :
    (writeByte a v s).cfg = s.cfg := rfl
@[simp] theorem writeByte_outScl (a : Nat) (v : Byte) (s : State) :
    (writeByte a v s).outScl = s.outScl := rfl
@[simp] theorem writeByte_outSda (a : Nat) (v : Byte) (s : State) :
    (writeByte a v s).outSda = s.outSda := rfl
@[simp] theorem writeByte_cmdr (a : Nat) (v : Byte) (s : State) :
    (writeByte a v s).cmdr = s.cmdr := rfl
@[simp] theorem writeByte_acc (a : Nat) (v : Byte) (s : State) :
    (writeByte a v s).acc = s.acc := rfl
@[simp] theorem writeByte_data (a : Nat) (v : Byte) (s : State) :
    (writeByte a v s).data = s.data := rfl
@[simp] theorem writeByte_bitcnt (a : Nat) (v : Byte) (s : State) :
    (writeByte a v s).bitcnt = s.bitcnt := rfl
@[simp] theorem writeByte_idx (a : Nat) (v : Byte) (s : State) :
    (writeByte a v s).idx = s.idx := rfl
@[simp] theorem writeByte_waitcnt (a : Nat) (v : Byte) (s : State) :
    (writeByte a v s).waitcnt = s.waitcnt := rfl
@[simp] theorem writeByte_nwritten (a : Nat) (v : Byte) (s : State) :
    (writeByte a v s).nwritten = s.nwritten := rfl
@[simp] theorem writeByte_nread (a : Nat) (v : Byte) (s : State) :
    (writeByte a v s).nread = s.nread := rfl
@[simp] theorem writeByte_busy (a : Nat) (v : Byte) (s : State) :
    (writeByte a v s).busy = s.busy := rfl
@[simp] theorem writeByte_ack (a : Nat) (v : Byte) (s : State) :
    (writeByte a v s).ack = s.ack := rfl
@[simp] theorem writeByte_lvl (a : Nat) (v : Byte) (s : State) :
    (writeByte a v s).lvl = s.lvl := rfl
@[simp] theorem writeByte_err (a : Nat) (v : Byte) (s : State) :
    (writeByte a v s).err = s.err := rfl
@[simp] theorem writeByte_upc (a : Nat) (v : Byte) (s : State) :
    (writeByte a v s).upc = s.upc := rfl
@[simp] theorem writeByte_mem (a : Nat) (v : Byte) (s : State) :
    (writeByte a v s).mem = s.mem.write a v := rfl
@[simp] theorem writeByte_host (a : Nat) (v : Byte) (s : State) :
    (writeByte a v s).host = s.host := rfl
@[simp] theorem writeByte_sclIn (a : Nat) (v : Byte) (s : State) :
    (writeByte a v s).sclIn = s.sclIn := rfl
@[simp] theorem writeByte_sdaIn (a : Nat) (v : Byte) (s : State) :
    (writeByte a v s).sdaIn = s.sdaIn := rfl
@[simp] theorem writeByte_draws (a : Nat) (v : Byte) (s : State) :
    (writeByte a v s).draws = s.draws := rfl
@[simp] theorem writeByte_epoch (a : Nat) (v : Byte) (s : State) :
    (writeByte a v s).epoch = s.epoch := rfl

/-! ### endOk -/

@[simp] theorem endOk_cfg  (s : State) :
    (endOk s).cfg = s.cfg := rfl
@[simp] theorem endOk_outScl  (s : State) :
    (endOk s).outScl = s.outScl := rfl
@[simp] theorem endOk_outSda  (s : State) :
    (endOk s).outSda = s.outSda := rfl
@[simp] theorem endOk_cmdr  (s : State) :
    (endOk s).cmdr = s.cmdr := rfl
@[simp] theorem endOk_acc  (s : State) :
    (endOk s).acc = s.acc := rfl
@[simp] theorem endOk_data  (s : State) :
    (endOk s).data = s.data := rfl
@[simp] theorem endOk_bitcnt  (s : State) :
    (endOk s).bitcnt = s.bitcnt := rfl
@[simp] theorem endOk_idx  (s : State) :
    (endOk s).idx = s.idx := rfl
@[simp] theorem endOk_waitcnt  (s : State) :
    (endOk s).waitcnt = s.waitcnt := rfl
@[simp] theorem endOk_nwritten  (s : State) :
    (endOk s).nwritten = s.nwritten := rfl
@[simp] theorem endOk_nread  (s : State) :
    (endOk s).nread = s.nread := rfl
@[simp] theorem endOk_busy  (s : State) :
    (endOk s).busy = false := rfl
@[simp] theorem endOk_ack  (s : State) :
    (endOk s).ack = s.ack := rfl
@[simp] theorem endOk_lvl  (s : State) :
    (endOk s).lvl = s.lvl := rfl
@[simp] theorem endOk_err  (s : State) :
    (endOk s).err = s.err := rfl
@[simp] theorem endOk_upc  (s : State) :
    (endOk s).upc = .idle := rfl
@[simp] theorem endOk_mem  (s : State) :
    (endOk s).mem = s.mem := rfl
@[simp] theorem endOk_host  (s : State) :
    (endOk s).host = s.host := rfl
@[simp] theorem endOk_sclIn  (s : State) :
    (endOk s).sclIn = s.sclIn := rfl
@[simp] theorem endOk_sdaIn  (s : State) :
    (endOk s).sdaIn = s.sdaIn := rfl
@[simp] theorem endOk_draws  (s : State) :
    (endOk s).draws = s.draws := rfl
@[simp] theorem endOk_epoch  (s : State) :
    (endOk s).epoch = s.epoch := rfl

/-! ### raise -/

@[simp] theorem raise_cfg (e : ErrCode) (s : State) :
    (raise e s).cfg = s.cfg := rfl
@[simp] theorem raise_outScl (e : ErrCode) (s : State) :
    (raise e s).outScl = s.outScl := rfl
@[simp] theorem raise_outSda (e : ErrCode) (s : State) :
    (raise e s).outSda = s.outSda := rfl
@[simp] theorem raise_cmdr (e : ErrCode) (s : State) :
    (raise e s).cmdr = s.cmdr := rfl
@[simp] theorem raise_acc (e : ErrCode) (s : State) :
    (raise e s).acc = s.acc := rfl
@[simp] theorem raise_data (e : ErrCode) (s : State) :
    (raise e s).data = s.data := rfl
@[simp] theorem raise_bitcnt (e : ErrCode) (s : State) :
    (raise e s).bitcnt = s.bitcnt := rfl
@[simp] theorem raise_idx (e : ErrCode) (s : State) :
    (raise e s).idx = s.idx := rfl
@[simp] theorem raise_waitcnt (e : ErrCode) (s : State) :
    (raise e s).waitcnt = s.waitcnt := rfl
@[simp] theorem raise_nwritten (e : ErrCode) (s : State) :
    (raise e s).nwritten = s.nwritten := rfl
@[simp] theorem raise_nread (e : ErrCode) (s : State) :
    (raise e s).nread = s.nread := rfl
@[simp] theorem raise_busy (e : ErrCode) (s : State) :
    (raise e s).busy = false := rfl
@[simp] theorem raise_ack (e : ErrCode) (s : State) :
    (raise e s).ack = s.ack := rfl
@[simp] theorem raise_lvl (e : ErrCode) (s : State) :
    (raise e s).lvl = s.lvl := rfl
@[simp] theorem raise_err (e : ErrCode) (s : State) :
    (raise e s).err = e := rfl
@[simp] theorem raise_upc (e : ErrCode) (s : State) :
    (raise e s).upc = .idle := rfl
@[simp] theorem raise_mem (e : ErrCode) (s : State) :
    (raise e s).mem = s.mem := rfl
@[simp] theorem raise_host (e : ErrCode) (s : State) :
    (raise e s).host = s.host := rfl
@[simp] theorem raise_sclIn (e : ErrCode) (s : State) :
    (raise e s).sclIn = s.sclIn := rfl
@[simp] theorem raise_sdaIn (e : ErrCode) (s : State) :
    (raise e s).sdaIn = s.sdaIn := rfl
@[simp] theorem raise_draws (e : ErrCode) (s : State) :
    (raise e s).draws = s.draws := rfl
@[simp] theorem raise_epoch (e : ErrCode) (s : State) :
    (raise e s).epoch = s.epoch := rfl

/-! ### illegalCommand -/

@[simp] theorem illegalCommand_cfg  (s : State) :
    (illegalCommand s).cfg = s.cfg := rfl
@[simp] theorem illegalCommand_outScl  (s : State) :
    (illegalCommand s).outScl = s.outScl := rfl
@[simp] theorem illegalCommand_outSda  (s : State) :
    (illegalCommand s).outSda = s.outSda := rfl
@[simp] theorem illegalCommand_cmdr  (s : State) :
    (illegalCommand s).cmdr = s.cmdr := rfl
@[simp] theorem illegalCommand_acc  (s : State) :
    (illegalCommand s).acc = s.acc := rfl
@[simp] theorem illegalCommand_data  (s : State) :
    (illegalCommand s).data = s.data := rfl
@[simp] theorem illegalCommand_bitcnt  (s : State) :
    (illegalCommand s).bitcnt = s.bitcnt := rfl
@[simp] theorem illegalCommand_idx  (s : State) :
    (illegalCommand s).idx = s.idx := rfl
@[simp] theorem illegalCommand_waitcnt  (s : State) :
    (illegalCommand s).waitcnt = s.waitcnt := rfl
@[simp] theorem illegalCommand_nwritten  (s : State) :
    (illegalCommand s).nwritten = s.nwritten := rfl
@[simp] theorem illegalCommand_nread  (s : State) :
    (illegalCommand s).nread = s.nread := rfl
@[simp] theorem illegalCommand_busy  (s : State) :
    (illegalCommand s).busy = s.busy := rfl
@[simp] theorem illegalCommand_ack  (s : State) :
    (illegalCommand s).ack = s.ack := rfl
@[simp] theorem illegalCommand_lvl  (s : State) :
    (illegalCommand s).lvl = s.lvl := rfl
@[simp] theorem illegalCommand_err  (s : State) :
    (illegalCommand s).err = .illegalCmd := rfl
@[simp] theorem illegalCommand_upc  (s : State) :
    (illegalCommand s).upc = s.upc := rfl
@[simp] theorem illegalCommand_mem  (s : State) :
    (illegalCommand s).mem = s.mem := rfl
@[simp] theorem illegalCommand_host  (s : State) :
    (illegalCommand s).host = s.host := rfl
@[simp] theorem illegalCommand_sclIn  (s : State) :
    (illegalCommand s).sclIn = s.sclIn := rfl
@[simp] theorem illegalCommand_sdaIn  (s : State) :
    (illegalCommand s).sdaIn = s.sdaIn := rfl
@[simp] theorem illegalCommand_draws  (s : State) :
    (illegalCommand s).draws = s.draws := rfl
@[simp] theorem illegalCommand_epoch  (s : State) :
    (illegalCommand s).epoch = s.epoch := rfl

/-! ### loadCommand -/

@[simp] theorem loadCommand_cfg (i : Instr) (s : State) :
    (loadCommand i s).cfg = s.cfg := rfl
@[simp] theorem loadCommand_outScl (i : Instr) (s : State) :
    (loadCommand i s).outScl = s.outScl := rfl
@[simp] theorem loadCommand_outSda (i : Instr) (s : State) :
    (loadCommand i s).outSda = s.outSda := rfl
@[simp] theorem loadCommand_cmdr (i : Instr) (s : State) :
    (loadCommand i s).cmdr = encode i := rfl
@[simp] theorem loadCommand_acc (i : Instr) (s : State) :
    (loadCommand i s).acc = s.acc := rfl
@[simp] theorem loadCommand_data (i : Instr) (s : State) :
    (loadCommand i s).data = s.data := rfl
@[simp] theorem loadCommand_bitcnt (i : Instr) (s : State) :
    (loadCommand i s).bitcnt = s.bitcnt := rfl
@[simp] theorem loadCommand_idx (i : Instr) (s : State) :
    (loadCommand i s).idx = s.idx := rfl
@[simp] theorem loadCommand_waitcnt (i : Instr) (s : State) :
    (loadCommand i s).waitcnt = s.waitcnt := rfl
@[simp] theorem loadCommand_nwritten (i : Instr) (s : State) :
    (loadCommand i s).nwritten = s.nwritten := rfl
@[simp] theorem loadCommand_nread (i : Instr) (s : State) :
    (loadCommand i s).nread = s.nread := rfl
@[simp] theorem loadCommand_busy (i : Instr) (s : State) :
    (loadCommand i s).busy = true := rfl
@[simp] theorem loadCommand_ack (i : Instr) (s : State) :
    (loadCommand i s).ack = s.ack := rfl
@[simp] theorem loadCommand_lvl (i : Instr) (s : State) :
    (loadCommand i s).lvl = s.lvl := rfl
@[simp] theorem loadCommand_err (i : Instr) (s : State) :
    (loadCommand i s).err = .ok := rfl
@[simp] theorem loadCommand_upc (i : Instr) (s : State) :
    (loadCommand i s).upc = s.upc := rfl
@[simp] theorem loadCommand_mem (i : Instr) (s : State) :
    (loadCommand i s).mem = s.mem := rfl
@[simp] theorem loadCommand_host (i : Instr) (s : State) :
    (loadCommand i s).host = s.host := rfl
@[simp] theorem loadCommand_sclIn (i : Instr) (s : State) :
    (loadCommand i s).sclIn = s.sclIn := rfl
@[simp] theorem loadCommand_sdaIn (i : Instr) (s : State) :
    (loadCommand i s).sdaIn = s.sdaIn := rfl
@[simp] theorem loadCommand_draws (i : Instr) (s : State) :
    (loadCommand i s).draws = s.draws := rfl
@[simp] theorem loadCommand_epoch (i : Instr) (s : State) :
    (loadCommand i s).epoch = s.epoch := rfl

/-! ### resetBlock -/

@[simp] theorem resetBlock_cfg  (s : State) :
    (resetBlock s).cfg = s.cfg := rfl
@[simp] theorem resetBlock_outScl  (s : State) :
    (resetBlock s).outScl = .released := rfl
@[simp] theorem resetBlock_outSda  (s : State) :
    (resetBlock s).outSda = .released := rfl
@[simp] theorem resetBlock_cmdr  (s : State) :
    (resetBlock s).cmdr = 0 := rfl
@[simp] theorem resetBlock_acc  (s : State) :
    (resetBlock s).acc = 0 := rfl
@[simp] theorem resetBlock_data  (s : State) :
    (resetBlock s).data = 0 := rfl
@[simp] theorem resetBlock_bitcnt  (s : State) :
    (resetBlock s).bitcnt = 0 := rfl
@[simp] theorem resetBlock_idx  (s : State) :
    (resetBlock s).idx = 0 := rfl
@[simp] theorem resetBlock_waitcnt  (s : State) :
    (resetBlock s).waitcnt = 0 := rfl
@[simp] theorem resetBlock_nwritten  (s : State) :
    (resetBlock s).nwritten = 0 := rfl
@[simp] theorem resetBlock_nread  (s : State) :
    (resetBlock s).nread = 0 := rfl
@[simp] theorem resetBlock_busy  (s : State) :
    (resetBlock s).busy = false := rfl
@[simp] theorem resetBlock_ack  (s : State) :
    (resetBlock s).ack = false := rfl
@[simp] theorem resetBlock_lvl  (s : State) :
    (resetBlock s).lvl = false := rfl
@[simp] theorem resetBlock_err  (s : State) :
    (resetBlock s).err = .ok := rfl
@[simp] theorem resetBlock_upc  (s : State) :
    (resetBlock s).upc = .idle := rfl
@[simp] theorem resetBlock_mem  (s : State) :
    (resetBlock s).mem = [] := rfl
@[simp] theorem resetBlock_host  (s : State) :
    (resetBlock s).host = s.host := rfl
@[simp] theorem resetBlock_sclIn  (s : State) :
    (resetBlock s).sclIn = s.sclIn := rfl
@[simp] theorem resetBlock_sdaIn  (s : State) :
    (resetBlock s).sdaIn = s.sdaIn := rfl
@[simp] theorem resetBlock_draws  (s : State) :
    (resetBlock s).draws = s.draws := rfl
@[simp] theorem resetBlock_epoch  (s : State) :
    (resetBlock s).epoch = s.epoch + 1 := rfl

/-! ### State.setOut -/

@[simp] theorem State.setOut_cfg (l : Line) (d : Drive) (s : State) :
    (s.setOut l d).cfg = s.cfg := by cases l <;> rfl
@[simp] theorem State.setOut_cmdr (l : Line) (d : Drive) (s : State) :
    (s.setOut l d).cmdr = s.cmdr := by cases l <;> rfl
@[simp] theorem State.setOut_acc (l : Line) (d : Drive) (s : State) :
    (s.setOut l d).acc = s.acc := by cases l <;> rfl
@[simp] theorem State.setOut_data (l : Line) (d : Drive) (s : State) :
    (s.setOut l d).data = s.data := by cases l <;> rfl
@[simp] theorem State.setOut_bitcnt (l : Line) (d : Drive) (s : State) :
    (s.setOut l d).bitcnt = s.bitcnt := by cases l <;> rfl
@[simp] theorem State.setOut_idx (l : Line) (d : Drive) (s : State) :
    (s.setOut l d).idx = s.idx := by cases l <;> rfl
@[simp] theorem State.setOut_waitcnt (l : Line) (d : Drive) (s : State) :
    (s.setOut l d).waitcnt = s.waitcnt := by cases l <;> rfl
@[simp] theorem State.setOut_nwritten (l : Line) (d : Drive) (s : State) :
    (s.setOut l d).nwritten = s.nwritten := by cases l <;> rfl
@[simp] theorem State.setOut_nread (l : Line) (d : Drive) (s : State) :
    (s.setOut l d).nread = s.nread := by cases l <;> rfl
@[simp] theorem State.setOut_busy (l : Line) (d : Drive) (s : State) :
    (s.setOut l d).busy = s.busy := by cases l <;> rfl
@[simp] theorem State.setOut_ack (l : Line) (d : Drive) (s : State) :
    (s.setOut l d).ack = s.ack := by cases l <;> rfl
@[simp] theorem State.setOut_lvl (l : Line) (d : Drive) (s : State) :
    (s.setOut l d).lvl = s.lvl := by cases l <;> rfl
@[simp] theorem State.setOut_err (l : Line) (d : Drive) (s : State) :
    (s.setOut l d).err = s.err := by cases l <;> rfl
@[simp] theorem State.setOut_upc (l : Line) (d : Drive) (s : State) :
    (s.setOut l d).upc = s.upc := by cases l <;> rfl
@[simp] theorem State.setOut_mem (l : Line) (d : Drive) (s : State) :
    (s.setOut l d).mem = s.mem := by cases l <;> rfl
@[simp] theorem State.setOut_host (l : Line) (d : Drive) (s : State) :
    (s.setOut l d).host = s.host := by cases l <;> rfl
@[simp] theorem State.setOut_sclIn (l : Line) (d : Drive) (s : State) :
    (s.setOut l d).sclIn = s.sclIn := by cases l <;> rfl
@[simp] theorem State.setOut_sdaIn (l : Line) (d : Drive) (s : State) :
    (s.setOut l d).sdaIn = s.sdaIn := by cases l <;> rfl
@[simp] theorem State.setOut_draws (l : Line) (d : Drive) (s : State) :
    (s.setOut l d).draws = s.draws := by cases l <;> rfl
@[simp] theorem State.setOut_epoch (l : Line) (d : Drive) (s : State) :
    (s.setOut l d).epoch = s.epoch := by cases l <;> rfl

@[simp] theorem State.setOut_scl (d : Drive) (s : State) :
    s.setOut .scl d = { s with outScl := d } := rfl
@[simp] theorem State.setOut_sda (d : Drive) (s : State) :
    s.setOut .sda d = { s with outSda := d } := rfl
@[simp] theorem State.setOut_out_same (l : Line) (d : Drive) (s : State) :
    (s.setOut l d).out l = d := by cases l <;> rfl
theorem State.setOut_out_other {l k : Line} (h : k ≠ l) (d : Drive) (s : State) :
    (s.setOut l d).out k = s.out k := by
  cases l <;> cases k <;> first | rfl | exact absurd rfl h
@[simp] theorem State.out_scl (s : State) : s.out .scl = s.outScl := rfl
@[simp] theorem State.out_sda (s : State) : s.out .sda = s.outSda := rfl
@[simp] theorem State.answers_scl (s : State) : s.answers .scl = s.sclIn := rfl
@[simp] theorem State.answers_sda (s : State) : s.answers .sda = s.sdaIn := rfl
@[simp] theorem State.setAnswers_scl (vs : List Level) (s : State) :
    s.setAnswers .scl vs = { s with sclIn := vs } := rfl
@[simp] theorem State.setAnswers_sda (vs : List Level) (s : State) :
    s.setAnswers .sda vs = { s with sdaIn := vs } := rfl

/-- `release(l)` on a released line, and `drive_low(l)` on a driven one, change nothing (R56, R90, R91). -/
theorem State.setOut_same {l : Line} {d : Drive} {s : State} (h : s.out l = d) :
    s.setOut l d = s := by
  cases l <;> subst h <;> rfl

/-! ### sample and poll: a sample changes only the environment's part, a poll also WAITCNT -/

@[simp] theorem sample_cfg (l : Line) (s : State) : (sample l s).2.cfg = s.cfg := by
  unfold sample draw; cases l <;> simp only [State.out, State.answers] <;> split <;> (try split) <;> rfl
@[simp] theorem sample_outScl (l : Line) (s : State) : (sample l s).2.outScl = s.outScl := by
  unfold sample draw; cases l <;> simp only [State.out, State.answers] <;> split <;> (try split) <;> rfl
@[simp] theorem sample_outSda (l : Line) (s : State) : (sample l s).2.outSda = s.outSda := by
  unfold sample draw; cases l <;> simp only [State.out, State.answers] <;> split <;> (try split) <;> rfl
@[simp] theorem sample_cmdr (l : Line) (s : State) : (sample l s).2.cmdr = s.cmdr := by
  unfold sample draw; cases l <;> simp only [State.out, State.answers] <;> split <;> (try split) <;> rfl
@[simp] theorem sample_acc (l : Line) (s : State) : (sample l s).2.acc = s.acc := by
  unfold sample draw; cases l <;> simp only [State.out, State.answers] <;> split <;> (try split) <;> rfl
@[simp] theorem sample_data (l : Line) (s : State) : (sample l s).2.data = s.data := by
  unfold sample draw; cases l <;> simp only [State.out, State.answers] <;> split <;> (try split) <;> rfl
@[simp] theorem sample_bitcnt (l : Line) (s : State) : (sample l s).2.bitcnt = s.bitcnt := by
  unfold sample draw; cases l <;> simp only [State.out, State.answers] <;> split <;> (try split) <;> rfl
@[simp] theorem sample_idx (l : Line) (s : State) : (sample l s).2.idx = s.idx := by
  unfold sample draw; cases l <;> simp only [State.out, State.answers] <;> split <;> (try split) <;> rfl
@[simp] theorem sample_waitcnt (l : Line) (s : State) : (sample l s).2.waitcnt = s.waitcnt := by
  unfold sample draw; cases l <;> simp only [State.out, State.answers] <;> split <;> (try split) <;> rfl
@[simp] theorem sample_nwritten (l : Line) (s : State) : (sample l s).2.nwritten = s.nwritten := by
  unfold sample draw; cases l <;> simp only [State.out, State.answers] <;> split <;> (try split) <;> rfl
@[simp] theorem sample_nread (l : Line) (s : State) : (sample l s).2.nread = s.nread := by
  unfold sample draw; cases l <;> simp only [State.out, State.answers] <;> split <;> (try split) <;> rfl
@[simp] theorem sample_busy (l : Line) (s : State) : (sample l s).2.busy = s.busy := by
  unfold sample draw; cases l <;> simp only [State.out, State.answers] <;> split <;> (try split) <;> rfl
@[simp] theorem sample_ack (l : Line) (s : State) : (sample l s).2.ack = s.ack := by
  unfold sample draw; cases l <;> simp only [State.out, State.answers] <;> split <;> (try split) <;> rfl
@[simp] theorem sample_lvl (l : Line) (s : State) : (sample l s).2.lvl = s.lvl := by
  unfold sample draw; cases l <;> simp only [State.out, State.answers] <;> split <;> (try split) <;> rfl
@[simp] theorem sample_err (l : Line) (s : State) : (sample l s).2.err = s.err := by
  unfold sample draw; cases l <;> simp only [State.out, State.answers] <;> split <;> (try split) <;> rfl
@[simp] theorem sample_upc (l : Line) (s : State) : (sample l s).2.upc = s.upc := by
  unfold sample draw; cases l <;> simp only [State.out, State.answers] <;> split <;> (try split) <;> rfl
@[simp] theorem sample_mem (l : Line) (s : State) : (sample l s).2.mem = s.mem := by
  unfold sample draw; cases l <;> simp only [State.out, State.answers] <;> split <;> (try split) <;> rfl
@[simp] theorem sample_host (l : Line) (s : State) : (sample l s).2.host = s.host := by
  unfold sample draw; cases l <;> simp only [State.out, State.answers] <;> split <;> (try split) <;> rfl
@[simp] theorem sample_epoch (l : Line) (s : State) : (sample l s).2.epoch = s.epoch := by
  unfold sample draw; cases l <;> simp only [State.out, State.answers] <;> split <;> (try split) <;> rfl
@[simp] theorem poll_cfg (c : WaitCond) (s : State) : (poll c s).2.cfg = s.cfg := by
  cases c <;> simp [poll]
@[simp] theorem poll_outScl (c : WaitCond) (s : State) : (poll c s).2.outScl = s.outScl := by
  cases c <;> simp [poll]
@[simp] theorem poll_outSda (c : WaitCond) (s : State) : (poll c s).2.outSda = s.outSda := by
  cases c <;> simp [poll]
@[simp] theorem poll_cmdr (c : WaitCond) (s : State) : (poll c s).2.cmdr = s.cmdr := by
  cases c <;> simp [poll]
@[simp] theorem poll_acc (c : WaitCond) (s : State) : (poll c s).2.acc = s.acc := by
  cases c <;> simp [poll]
@[simp] theorem poll_data (c : WaitCond) (s : State) : (poll c s).2.data = s.data := by
  cases c <;> simp [poll]
@[simp] theorem poll_bitcnt (c : WaitCond) (s : State) : (poll c s).2.bitcnt = s.bitcnt := by
  cases c <;> simp [poll]
@[simp] theorem poll_idx (c : WaitCond) (s : State) : (poll c s).2.idx = s.idx := by
  cases c <;> simp [poll]
@[simp] theorem poll_nwritten (c : WaitCond) (s : State) : (poll c s).2.nwritten = s.nwritten := by
  cases c <;> simp [poll]
@[simp] theorem poll_nread (c : WaitCond) (s : State) : (poll c s).2.nread = s.nread := by
  cases c <;> simp [poll]
@[simp] theorem poll_busy (c : WaitCond) (s : State) : (poll c s).2.busy = s.busy := by
  cases c <;> simp [poll]
@[simp] theorem poll_ack (c : WaitCond) (s : State) : (poll c s).2.ack = s.ack := by
  cases c <;> simp [poll]
@[simp] theorem poll_lvl (c : WaitCond) (s : State) : (poll c s).2.lvl = s.lvl := by
  cases c <;> simp [poll]
@[simp] theorem poll_err (c : WaitCond) (s : State) : (poll c s).2.err = s.err := by
  cases c <;> simp [poll]
@[simp] theorem poll_upc (c : WaitCond) (s : State) : (poll c s).2.upc = s.upc := by
  cases c <;> simp [poll]
@[simp] theorem poll_mem (c : WaitCond) (s : State) : (poll c s).2.mem = s.mem := by
  cases c <;> simp [poll]
@[simp] theorem poll_host (c : WaitCond) (s : State) : (poll c s).2.host = s.host := by
  cases c <;> simp [poll]
@[simp] theorem poll_epoch (c : WaitCond) (s : State) : (poll c s).2.epoch = s.epoch := by
  cases c <;> simp [poll]
@[simp] theorem poll_waitcnt (c : WaitCond) (s : State) :
    (poll c s).2.waitcnt = s.waitcnt + 1 := by
  cases c <;> simp [poll]

/-! ### perform: a micro-op changes only OUT, WAITCNT and the environment's part -/

@[simp] theorem perform_cfg (m : MicroOp) (s : State) : (perform m s).2.cfg = s.cfg := by
  cases m <;> simp [perform]
@[simp] theorem perform_cmdr (m : MicroOp) (s : State) : (perform m s).2.cmdr = s.cmdr := by
  cases m <;> simp [perform]
@[simp] theorem perform_acc (m : MicroOp) (s : State) : (perform m s).2.acc = s.acc := by
  cases m <;> simp [perform]
@[simp] theorem perform_data (m : MicroOp) (s : State) : (perform m s).2.data = s.data := by
  cases m <;> simp [perform]
@[simp] theorem perform_bitcnt (m : MicroOp) (s : State) : (perform m s).2.bitcnt = s.bitcnt := by
  cases m <;> simp [perform]
@[simp] theorem perform_idx (m : MicroOp) (s : State) : (perform m s).2.idx = s.idx := by
  cases m <;> simp [perform]
@[simp] theorem perform_nwritten (m : MicroOp) (s : State) : (perform m s).2.nwritten = s.nwritten := by
  cases m <;> simp [perform]
@[simp] theorem perform_nread (m : MicroOp) (s : State) : (perform m s).2.nread = s.nread := by
  cases m <;> simp [perform]
@[simp] theorem perform_busy (m : MicroOp) (s : State) : (perform m s).2.busy = s.busy := by
  cases m <;> simp [perform]
@[simp] theorem perform_ack (m : MicroOp) (s : State) : (perform m s).2.ack = s.ack := by
  cases m <;> simp [perform]
@[simp] theorem perform_lvl (m : MicroOp) (s : State) : (perform m s).2.lvl = s.lvl := by
  cases m <;> simp [perform]
@[simp] theorem perform_err (m : MicroOp) (s : State) : (perform m s).2.err = s.err := by
  cases m <;> simp [perform]
@[simp] theorem perform_upc (m : MicroOp) (s : State) : (perform m s).2.upc = s.upc := by
  cases m <;> simp [perform]
@[simp] theorem perform_mem (m : MicroOp) (s : State) : (perform m s).2.mem = s.mem := by
  cases m <;> simp [perform]
@[simp] theorem perform_host (m : MicroOp) (s : State) : (perform m s).2.host = s.host := by
  cases m <;> simp [perform]
@[simp] theorem perform_epoch (m : MicroOp) (s : State) : (perform m s).2.epoch = s.epoch := by
  cases m <;> simp [perform]

@[simp] theorem perform_release (l : Line) (s : State) :
    perform (.release l) s = (.high, s.setOut l .released) := rfl
@[simp] theorem perform_driveLow (l : Line) (s : State) :
    perform (.driveLow l) s = (.high, s.setOut l .drivenLow) := rfl
@[simp] theorem perform_hold (s : State) : perform .hold s = (.high, s) := rfl
@[simp] theorem perform_sample (l : Line) (s : State) : perform (.sample l) s = sample l s := rfl
@[simp] theorem perform_wait (c : WaitCond) (s : State) : perform (.wait c) s = poll c s := rfl

end Sys2Proof.Machine
end

