-- ==== Sys2Proof/Laws/Ops.lean ====
section
/-! SUPPORT. What each shared operation can do, once: samples (R93), polls (R96, R97), the accept of a
command (R27), and the two ways a meaning goes (R25, R27). -/

namespace Sys2Proof.Machine

/-! ### Samples and polls -/

/-- R93, first line: a line the engine drives reads LOW, and nothing of the environment is used. -/
theorem sample_driven {l : Line} {s : State} (h : s.out l = .drivenLow) : sample l s = (.low, s) := by
  simp [sample, h]

/-- A released line is answered by the environment's script while it lasts (R93, log 3). -/
theorem sample_script {l : Line} {s : State} {v : Level} {vs : List Level}
    (h : s.out l = .released) (ha : s.answers l = v :: vs) :
    sample l s = (v, s.setAnswers l vs) := by
  simp [sample, h, draw, ha]

/-- Past the script a released line is answered by a free level (R93, U11, log 3). -/
theorem sample_free {l : Line} {s : State} (h : s.out l = .released) (ha : s.answers l = []) :
    sample l s = (Config.freeLevel s.draws, { s with draws := s.draws + 1 }) := by
  simp [sample, h, draw, ha]

/-- A poll of the two-line condition with both lines released and both scripts answering: both samples
are taken (R96). -/
theorem poll_both_script {s : State} {a b : Level} {as bs : List Level}
    (ho : s.outScl = .released) (hd : s.outSda = .released)
    (ha : s.sclIn = a :: as) (hb : s.sdaIn = b :: bs) :
    poll .bothHigh s
      = (bothHigh a b, { s with waitcnt := s.waitcnt + 1, sclIn := as, sdaIn := bs }) := by
  simp [poll, sample, State.out, draw, State.answers, State.setAnswers, ho, hd, ha, hb]

/-- A poll of the clock line with it released and its script answering (R96). -/
theorem poll_scl_script {s : State} {a : Level} {as : List Level}
    (ho : s.outScl = .released) (ha : s.sclIn = a :: as) :
    poll .sclHigh s = (a, { s with waitcnt := s.waitcnt + 1, sclIn := as }) := by
  simp [poll, sample, State.out, draw, State.answers, State.setAnswers, ho, ha]

/-- Both are HIGH exactly when each is. -/
theorem bothHigh_eq_high {a b : Level} : bothHigh a b = .high ↔ a = .high ∧ b = .high := by
  cases a <;> cases b <;> simp [bothHigh]

theorem afterPoll_high {π ρ : Type} (s : State) (again : π) (on : Flow π ρ) :
    afterPoll .high s again on = (s, on) := rfl

/-- A failed poll below the bound is taken again (R25, R96). -/
theorem afterPoll_low {π ρ : Type} {s : State} (h : waitExpired s = false) (again : π)
    (on : Flow π ρ) : afterPoll .low s again on = (s, .go again) := by
  simp [afterPoll, h]

/-- A failed poll at the bound ends the wait (R97). -/
theorem afterPoll_expired {π ρ : Type} {s : State} (h : waitExpired s = true) (again : π)
    (on : Flow π ρ) : afterPoll .low s again on = (s, .stuck) := by
  simp [afterPoll, h]

/-- What a poll's continuation can do: go on with the condition seen, stay below the bound, or end at it
(R96, R97). -/
theorem afterPoll_cases {π ρ : Type} (v : Level) (s : State) (again : π) (on : Flow π ρ) :
    (v = .high ∧ afterPoll v s again on = (s, on)) ∨
      (v = .low ∧ waitExpired s = false ∧ afterPoll v s again on = (s, .go again)) ∨
      (v = .low ∧ waitExpired s = true ∧ afterPoll v s again on = (s, .stuck)) := by
  cases v
  · cases h : waitExpired s
    · exact .inr (.inl ⟨rfl, rfl, afterPoll_low h _ _⟩)
    · exact .inr (.inr ⟨rfl, rfl, afterPoll_expired h _ _⟩)
  · exact .inl ⟨rfl, rfl⟩

/-- The wait's bound is on the polls made: with none set it is never reached (R97). -/
theorem waitExpired_iff (s : State) :
    waitExpired s = true ↔ ∃ n, s.cfg.waitLimit = some n ∧ n ≤ s.waitcnt := by
  unfold waitExpired
  split <;> simp_all

/-! ### Accept and run -/

theorem acceptOr_idle {i : Instr} {enter : State → State}
    {run : State → Host.Outcome State Fault Refusal} {s : State} (h : s.busy = false) :
    acceptOr i enter run s = accept i enter s := by
  simp [acceptOr, h]

theorem acceptOr_busy {i : Instr} {enter : State → State}
    {run : State → Host.Outcome State Fault Refusal} {s : State} (h : s.busy = true) :
    acceptOr i enter run s = run s := by
  simp [acceptOr, h]

theorem accept_wf {i : Instr} {enter : State → State} {s : State} (h : i.wf s.cfg = true) :
    accept i enter s = .next (enter (loadCommand i s)) := by
  simp [accept, h]

theorem accept_not_wf {i : Instr} {enter : State → State} {s : State} (h : i.wf s.cfg = false) :
    accept i enter s = .next (illegalCommand s) := by
  simp [accept, h]

/-- A command's own part of its accept (R27): its first place, and its counter. -/
def entryOf (i : Instr) : State → State :=
  match i with
  | .release _ => enterLine
  | .driveLow _ => enterLine
  | .readLine _ => enterLine
  | .start => enterStart
  | .stop => enterStop .success
  | .sendByte b => enterSend .operand b
  | .receiveByte a => enterRecv a
  | .write _ n => enterWrite n
  | .read _ c _ => enterRead c

/-- What a command does while BUSY = 1 (R25). -/
def runOf (i : Instr) : State → Host.Outcome State Fault Refusal :=
  match i with
  | .release l => lineStep (.release l) (fun _ t => t)
  | .driveLow l => lineStep (.driveLow l) (fun _ t => t)
  | .readLine l => lineStep (.sample l) (fun v t => t.setLvl v)
  | .start => runStart
  | .stop => runStop
  | .sendByte _ => runSendByte
  | .receiveByte _ => runReceiveByte
  | .write a n => runWrite a n
  | .read a c ns => runRead a c ns

/-- A command is its accept while BUSY = 0 and its next micro-op while BUSY = 1 (R25, R27). -/
theorem exec_eq (i : Instr) (s : State) : exec i s = acceptOr i (entryOf i) (runOf i) s := by
  cases i <;> rfl

/-- The accept of a legal command. -/
theorem exec_idle {i : Instr} {s : State} (h : s.busy = false) (hw : i.wf s.cfg = true) :
    exec i s = .next (entryOf i (loadCommand i s)) := by
  rw [exec_eq, acceptOr_idle h, accept_wf hw]

/-- The accept of an illegal command (R72 (d), R180). -/
theorem exec_idle_illegal {i : Instr} {s : State} (h : s.busy = false) (hw : i.wf s.cfg = false) :
    exec i s = .next (illegalCommand s) := by
  rw [exec_eq, acceptOr_idle h, accept_not_wf hw]

/-- The next micro-op of a running command. -/
theorem exec_busy {i : Instr} {s : State} (h : s.busy = true) : exec i s = runOf i s := by
  rw [exec_eq, acceptOr_busy h]

/-- A READ in a `stop()` of its own goes on as `stop()` does (R145). -/
theorem runRead_stop {address : BitVec 7} {c : Byte} {nostop : Bool} {s : State} {after : Closing}
    {p : StopPos} (hu : s.upc = .stop after p) (h : after ≠ .nakData) :
    runRead address c nostop s = stopThenConclude after p s := by
  cases after
  · simp only [runRead, hu]
  · simp only [runRead, hu]
  · exact absurd rfl h

end Sys2Proof.Machine
end

