-- ==== Sys2Proof/Laws/Steps.lean ====
section
/-! SUPPORT. What each shared operation can do when it answers a next state, said once: the continuation
of an operation, the accept, the host's write and issue, the engine's step and the machine's step. -/

namespace Sys2Proof.Machine

/-- A caller goes on in one of three ways (R25, R176). -/
theorem resume_cases {π ρ : Type} {r : State × Flow π ρ} {place : π → Upc}
    {K : ρ → State → Host.Outcome State Fault Refusal} {t : State}
    (h : resume r place K = .next t) :
    (∃ p, r.2 = .go p ∧ t = r.1.goto (place p)) ∨
      (∃ x, r.2 = .done x ∧ K x r.1 = .next t) ∨
      (r.2 = .stuck ∧ t = raise .busStuck r.1) := by
  unfold resume at h
  split at h
  · rename_i p hp
    exact .inl ⟨p, hp, by cases h; rfl⟩
  · rename_i x hx
    exact .inr (.inl ⟨x, hx, h⟩)
  · rename_i hs
    exact .inr (.inr ⟨hs, by cases h; rfl⟩)

/-- An accept takes the command or raises ILLEGAL_CMD, and always answers (R27, R72 (d)). -/
theorem accept_cases {i : Instr} {enter : State → State} {s t : State}
    (h : accept i enter s = .next t) :
    (i.wf s.cfg = true ∧ t = enter (loadCommand i s)) ∨
      (i.wf s.cfg = false ∧ t = illegalCommand s) := by
  cases hw : i.wf s.cfg
  · rw [accept_not_wf hw] at h
    exact .inr ⟨rfl, by cases h; rfl⟩
  · rw [accept_wf hw] at h
    exact .inl ⟨rfl, by cases h; rfl⟩

/-- The one micro-op of a line-driver command (R94, R98, R99). -/
theorem lineStep_cases {m : MicroOp} {record : Level → State → State} {s t : State}
    (h : lineStep m record s = .next t) :
    s.upc = .line ∧ t = endOk (record (perform m s).1 (perform m s).2) := by
  unfold lineStep at h
  split at h
  · rename_i hu
    exact ⟨hu, by cases h; rfl⟩
  · cases h

/-- A command's step (R25, R27). -/
theorem exec_cases {i : Instr} {s t : State} (h : exec i s = .next t) :
    (s.busy = true ∧ runOf i s = .next t) ∨
      (s.busy = false ∧ i.wf s.cfg = true ∧ t = entryOf i (loadCommand i s)) ∨
      (s.busy = false ∧ i.wf s.cfg = false ∧ t = illegalCommand s) := by
  cases hb : s.busy
  · rw [exec_eq, acceptOr_idle hb] at h
    rcases accept_cases h with ⟨hw, rfl⟩ | ⟨hw, rfl⟩
    · exact .inr (.inl ⟨rfl, hw, rfl⟩)
    · exact .inr (.inr ⟨rfl, hw, rfl⟩)
  · rw [exec_busy hb] at h
    exact .inl ⟨rfl, h⟩

/-- The issue of a word (R27). -/
theorem issue_cases {w : Word} {s t : State} (h : issue w s = .next t) :
    (s.busy = true ∧ t = s) ∨
      (s.busy = false ∧ ∃ i, decode w = .ok i ∧ exec i s = .next t) ∨
      (s.busy = false ∧ (∃ e, decode w = .error e) ∧ t = illegalCommand s) := by
  unfold issue at h
  cases hb : s.busy <;> simp only [hb, Bool.false_eq_true, if_true, if_false] at h
  · split at h
    · rename_i i hd
      exact .inr (.inl ⟨rfl, i, hd, h⟩)
    · rename_i e hd
      exact .inr (.inr ⟨rfl, ⟨e, hd⟩, by cases h; rfl⟩)
  · exact .inl ⟨rfl, by cases h; rfl⟩

/-- A host write (R56). -/
theorem hostWrite_cases {n : Nat} {v : Word} {s t : State} (h : hostWrite n v s = .next t) :
    (n = 0 ∧ issue v s = .next t) ∨
      (n ≠ 0 ∧ inTxWindow s.cfg n = true ∧ s.busy = false ∧ t = writeByte n (v.setWidth 8) s) ∨
      (n ≠ 0 ∧ (inTxWindow s.cfg n = false ∨ s.busy = true) ∧ t = s) := by
  unfold hostWrite at h
  split at h
  · rename_i hn
    exact .inl ⟨hn, h⟩
  · rename_i hn
    split at h
    · rename_i hw
      simp only [Bool.and_eq_true, Bool.not_eq_true'] at hw
      exact .inr (.inl ⟨hn, hw.1, hw.2, by cases h; rfl⟩)
    · rename_i hw
      refine .inr (.inr ⟨hn, ?_, by cases h; rfl⟩)
      cases hx : inTxWindow s.cfg n <;> cases hy : s.busy <;> simp_all

/-- The engine's step (R25, R194). -/
theorem engineStep_cases {s t : State} (h : engineStep s = .next t) :
    (s.busy = false ∧ t = s) ∨
      (s.busy = true ∧ ∃ i, decode s.cmdr = .ok i ∧ exec i s = .next t) := by
  unfold engineStep at h
  cases hb : s.busy <;> simp only [hb, Bool.false_eq_true, if_true, if_false] at h
  · exact .inl ⟨rfl, by cases h; rfl⟩
  · split at h
    · rename_i i hd
      exact .inr ⟨rfl, i, hd, h⟩
    · cases h

/-- The machine's step, by who moves (log 2). -/
theorem step_cases {s t : State} (h : step s = .next t) :
    (s.host = [] ∧ engineStep s = .next t) ∨
      (∃ rest, s.host = .wait :: rest ∧ engineStep { s with host := rest } = .next t) ∨
      (∃ n v rest, s.host = .write n v :: rest ∧ hostWrite n v { s with host := rest } = .next t) ∨
      (∃ n rest, s.host = .read n :: rest ∧ t = { s with host := rest }) ∨
      (∃ rest, s.host = .reset :: rest ∧ t = resetBlock { s with host := rest }) := by
  unfold step advance at h
  split at h
  · rename_i hh
    exact .inl ⟨hh, h⟩
  · rename_i rest hh
    exact .inr (.inl ⟨rest, hh, h⟩)
  · rename_i n v rest hh
    exact .inr (.inr (.inl ⟨n, v, rest, hh, h⟩))
  · rename_i n rest hh
    exact .inr (.inr (.inr (.inl ⟨n, rest, hh, by cases h; rfl⟩)))
  · rename_i rest hh
    exact .inr (.inr (.inr (.inr ⟨rest, hh, by cases h; rfl⟩)))

/-- The trace of a run in two parts (R12). -/
theorem runTrace_add {k : Nat} (m : Nat) {s t : State} (h : Host.Core.run Sys2Proof.core k s = .next t) :
    runTrace (k + m) s = runTrace k s ++ runTrace m t := by
  induction k generalizing s with
  | zero =>
    cases h
    simp [runTrace]
  | succ k ih =>
    have hs : ∃ u, step s = .next u ∧ Host.Core.run Sys2Proof.core k u = .next t := by
      simp only [Host.Core.run] at h
      split at h
      · rename_i u hu
        exact ⟨u, hu, h⟩
      · cases h
      · cases h
    obtain ⟨u, hu, hr⟩ := hs
    simp [Nat.succ_add, runTrace, hu, ih hr]

end Sys2Proof.Machine
end

