-- ==== Sys2Proof/Laws/Facade.lean ====
section
/-! SUPPORT. What the host-side calls can do: the wait, a whole call, and the facade's operations. -/

namespace Sys2Proof.Machine

/-- A step in which the host waits is the engine's step (log 2). -/
theorem step_wait (s : State) : step { s with host := .wait :: s.host } = engineStep s := rfl

/-- The wait of an idle engine is over at once (R80). -/
theorem awaitIdle_idle {s : State} (h : s.busy = false) (patience : Nat) :
    awaitIdle patience s = .next s := by
  cases patience <;> simp [awaitIdle, h]

/-- A result is there exactly once BUSY = 0 (R62). -/
theorem onceIdle_eq_some {α : Type} {f : State → α} {s : State} {x : α} :
    onceIdle f s = some x ↔ s.busy = false ∧ f s = x := by
  unfold onceIdle
  cases s.busy <;> simp

/-- The result a call answers is the one read off the state it leaves. -/
theorem hostCall_result {α : Type} {acts : List HostAction} {patience : Nat}
    {result : State → Option α} {s u : State} {x : Option α}
    (h : hostCall acts patience result s = .next (x, u)) : x = result u := by
  unfold hostCall at h
  split at h
  · split at h
    · cases h
      rfl
    · cases h
    · cases h
  · cases h
  · cases h

@[simp] theorem receivedBytes_length (s : State) : (receivedBytes s).length = s.nread.toNat := by
  simp [receivedBytes]

/-- A request that has ended leaves BUSY = 0 and the facade of R166. -/
theorem request_done {address : BitVec 7} {count : Byte} {sendStop : Bool} {patience : Nat}
    {f g : Facade} {s u : State} (h : request address count sendStop patience f s = .next (some g, u)) :
    u.busy = false ∧
      g = { buf := receivedBytes u ++ f.buf.drop u.nread.toNat, length := u.nread.toNat, cursor := 0 } := by
  have hr := hostCall_result h
  obtain ⟨hb, hg⟩ := onceIdle_eq_some.1 hr.symm
  exact ⟨hb, hg.symm⟩

/-- The next byte (R168). -/
theorem Facade.readNext_of_byte {p : Params} {f : Facade} {v : Byte} (h : f.cursor < f.length)
    (hv : f.buf[f.cursor]? = some v) :
    f.readNext p = (.byte v, { f with cursor := f.cursor + 1 }) := by
  simp [Facade.readNext, h, hv]

/-- Past the end: the sentinel, nothing changed (R168). -/
theorem Facade.readNext_of_end {p : Params} {f : Facade} (h : f.length ≤ f.cursor) :
    f.readNext p = (p.emptySentinel, f) := by
  simp [Facade.readNext, Nat.not_lt.2 h]

end Sys2Proof.Machine
end

