-- ==== Sys2Proof/Laws/PerInstr.lean ====
section
/-! SUPPORT. The statements made per instruction. -/

namespace Sys2Proof.Laws.RowWord

/-- The command word of `i` selects `i`'s own row of the match/mask table (R73). -/
def Statement (i : Instr) : Prop := encode i &&& (rowMatchMask i).2 = (rowMatchMask i).1

theorem release (line : Line) : Statement (.release line) := by
  cases line <;> rfl

theorem driveLow (line : Line) : Statement (.driveLow line) := by
  cases line <;> rfl

theorem readLine (line : Line) : Statement (.readLine line) := by
  cases line <;> rfl

theorem start : Statement .start := rfl

theorem stop : Statement .stop := rfl

theorem sendByte (byte : Byte) : Statement (.sendByte byte) := by
  apply BitVec.eq_of_getLsbD_eq
  intro i hi
  simp only [encode, rowMatchMask, BitVec.getLsbD_and, assemble_getLsbD]
  interval_cases i <;> simp

theorem receiveByte (ack : Bool) : Statement (.receiveByte ack) := by
  cases ack <;> rfl

theorem write (address : BitVec 7) (len : Byte) : Statement (.write address len) := by
  apply BitVec.eq_of_getLsbD_eq
  intro i hi
  simp only [encode, rowMatchMask, BitVec.getLsbD_and, assemble_getLsbD]
  interval_cases i <;> simp

theorem read (address : BitVec 7) (count : Byte) (nostop : Bool) :
    Statement (.read address count nostop) := by
  apply BitVec.eq_of_getLsbD_eq
  intro i hi
  simp only [encode, rowMatchMask, BitVec.getLsbD_and, assemble_getLsbD]
  interval_cases i <;> simp

end Sys2Proof.Laws.RowWord
end

