-- ==== Sys2Proof/Laws/Runs.lean ====
section
/-! SUPPORT. Whole runs of the four operations, once and for every command that calls them: `start()`
(R105), `stop()` (R107), `send_byte` (R120) and `receive_byte` (R125), with their traces. -/

namespace Sys2Proof.Machine

/-- `k` steps of command `i` from `s` answer `o` and leave the trace `tr`. -/
def Runs (i : Instr) (k : Nat) (s : State) (tr : List Event)
    (o : Host.Outcome State Fault Refusal) : Prop :=
  execMany i k s = o ∧ execTrace i k s = tr

theorem Runs.zero (i : Instr) (s : State) : Runs i 0 s [] (.next s) := ⟨rfl, rfl⟩

/-- One step, then a run. -/
theorem Runs.step {i : Instr} {k : Nat} {s t : State} {tr : List Event}
    {o : Host.Outcome State Fault Refusal} (h : exec i s = .next t) (r : Runs i k t tr o) :
    Runs i (k + 1) s (execEvents i s ++ tr) o := by
  constructor
  · simp [execMany, h, r.1]
  · simp [execTrace, h, r.2]

/-- The last step of a run. -/
theorem Runs.last {i : Instr} {s : State} {o : Host.Outcome State Fault Refusal}
    (h : exec i s = o) : Runs i 1 s (execEvents i s) o := by
  subst h
  constructor
  · unfold execMany execMany
    cases exec i s <;> rfl
  · unfold execTrace execTrace
    cases exec i s <;> simp

/-- A run, then a run. -/
theorem Runs.append {i : Instr} {k m : Nat} {s t : State} {tr tr' : List Event}
    {o : Host.Outcome State Fault Refusal} (h : Runs i k s tr (.next t)) (r : Runs i m t tr' o) :
    Runs i (k + m) s (tr ++ tr') o := by
  induction k generalizing s tr with
  | zero =>
    obtain ⟨h1, h2⟩ := h
    cases h1
    subst h2
    simpa [execTrace] using r
  | succ k ih =>
    obtain ⟨h1, h2⟩ := h
    subst h2
    cases he : exec i s with
    | next u =>
      have h' : Runs i k u (execTrace i k u) (.next t) := ⟨by simpa [execMany, he] using h1, rfl⟩
      have := Runs.step he (ih h')
      simpa [execTrace, he, Nat.add_right_comm] using this
    | fault f => simp [execMany, he] at h1
    | refused f => simp [execMany, he] at h1

/-- One micro-op of an operation that stays in it. -/
theorem Runs.micro {π ρ : Type} {i : Instr} {k : Nat} {s : State} {r : State × Flow π ρ}
    {place : π → Upc} {K : ρ → State → Host.Outcome State Fault Refusal} {p : π}
    {m : MicroOp} {ev tr : List Event} {o : Host.Outcome State Fault Refusal} {u : State}
    (hb : s.busy = true) (hm : microOpOf i s = some m) (he : m.events s = ev)
    (h : exec i s = resume r place K) (hr : r = (u, .go p))
    (rest : Runs i k (u.goto (place p)) tr o) :
    Runs i (k + 1) s (ev ++ tr) o := by
  have h' : exec i s = .next (u.goto (place p)) := by rw [h, hr]; rfl
  have hev : execEvents i s = ev := by simp [execEvents, hb, hm, he]
  exact hev ▸ Runs.step h' rest

/-- The last micro-op of an operation. -/
theorem Runs.microDone {π ρ : Type} {i : Instr} {s : State} {r : State × Flow π ρ}
    {place : π → Upc} {K : ρ → State → Host.Outcome State Fault Refusal} {x : ρ}
    {m : MicroOp} {ev : List Event} {u : State}
    (hb : s.busy = true) (hm : microOpOf i s = some m) (he : m.events s = ev)
    (h : exec i s = resume r place K) (hr : r = (u, .done x)) :
    Runs i 1 s ev (K x u) := by
  have h' : exec i s = K x u := by rw [h, hr]; rfl
  have hev : execEvents i s = ev := by simp [execEvents, hb, hm, he]
  exact hev ▸ Runs.last h'

/-- The wait of `start()` and `stop()` may fail `n` times with the bound not reached. -/
abbrev boundAllows (p : Params) (fails : Nat) : Prop := ∀ n, p.waitLimit = some n → fails < n

theorem not_expired {s : State} {n : Nat} (h : boundAllows s.cfg n) (hw : s.waitcnt ≤ n) :
    waitExpired s = false := by
  unfold waitExpired
  split
  · rfl
  · rename_i k hk
    have := h k hk
    simp
    omega

/-- The events of the polls of the two-line condition. -/
def pollEvents (ps : List (Level × Level)) : List Event :=
  ps.flatMap (fun q => [.smp .scl q.1, .smp .sda q.2])

/-! ### `start()` (R105) -/

/-- The wait S3: polls that fail, then one that sees both lines HIGH (R96, R105). -/
theorem start_wait {i : Instr} {K : Unit → State → Host.Outcome State Fault Refusal}
    (H : ∀ t p, t.busy = true → t.upc = .start p → exec i t = resume (startStep p t) .start K)
    {ps : List (Level × Level)} (hf : ∀ q ∈ ps, bothHigh q.1 q.2 = .low)
    {c d : List Level} {k : Nat} {tr : List Event} {o : Host.Outcome State Fault Refusal} :
    ∀ {s : State}, s.busy = true → s.upc = .start .s3 →
      s.outScl = .released → s.outSda = .released →
      s.sclIn = ps.map Prod.fst ++ .high :: c → s.sdaIn = ps.map Prod.snd ++ .high :: d →
      boundAllows s.cfg (s.waitcnt + ps.length) →
      Runs i k { s with waitcnt := s.waitcnt + ps.length + 1, sclIn := c, sdaIn := d,
                        upc := .start .s4 } tr o →
      Runs i (ps.length + 1 + k) s (pollEvents ps ++ [.smp .scl .high, .smp .sda .high] ++ tr) o := by
  induction ps with
  | nil =>
    intro s hb hu ho hd hc hs _ r
    have hp := poll_both_script ho hd hc hs
    have hev : StartPos.s3.microOp.events s = [.smp .scl .high, .smp .sda .high] := by
      simp [StartPos.microOp, MicroOp.events, sample, State.out, draw, State.answers,
        State.setAnswers, ho, hd, hc, hs]
    have := Runs.micro (p := StartPos.s4) (m := StartPos.s3.microOp) hb (by simp [microOpOf, hu]) hev
      (H s .s3 hb hu) (by simp [startStep, StartPos.microOp, hp, bothHigh, afterPoll_high]; rfl) r
    simpa [pollEvents, Nat.add_comm] using this
  | cons q ps ih =>
    intro s hb hu ho hd hc hs hn r
    have hp := poll_both_script (a := q.1) (b := q.2) ho hd
      (by simpa using hc) (by simpa using hs)
    have hq : bothHigh q.1 q.2 = .low := hf q (List.mem_cons_self ..)
    have hev : StartPos.s3.microOp.events s = [.smp .scl q.1, .smp .sda q.2] := by
      simp [StartPos.microOp, MicroOp.events, sample, State.out, draw, State.answers,
        State.setAnswers, ho, hd, hc, hs]
    have hx : waitExpired { s with
        waitcnt := s.waitcnt + 1, sclIn := ps.map Prod.fst ++ .high :: c,
        sdaIn := ps.map Prod.snd ++ .high :: d } = false :=
      not_expired hn (by simp)
    have hrest := ih (fun x hx => hf x (List.mem_cons_of_mem _ hx))
      (s := { s with waitcnt := s.waitcnt + 1, sclIn := ps.map Prod.fst ++ .high :: c,
                     sdaIn := ps.map Prod.snd ++ .high :: d, upc := .start .s3 })
      hb rfl ho hd rfl rfl (by simpa [Nat.add_assoc, Nat.add_comm 1] using hn)
      (by simpa [Nat.add_assoc, Nat.add_comm 1] using r)
    have := Runs.micro (p := StartPos.s3) (m := StartPos.s3.microOp) hb (by simp [microOpOf, hu]) hev
      (H s .s3 hb hu)
      (by simp only [startStep, StartPos.microOp, perform_wait, hp, hq, afterPoll_low hx]; rfl) hrest
    simpa [pollEvents, Nat.add_right_comm] using this

/-- `start()` from any line state, its wait failing `ps.length` times (R105, R110). -/
theorem start_runs {i : Instr} {K : Unit → State → Host.Outcome State Fault Refusal}
    (H : ∀ t p, t.busy = true → t.upc = .start p → exec i t = resume (startStep p t) .start K)
    {ps : List (Level × Level)} (hf : ∀ q ∈ ps, bothHigh q.1 q.2 = .low)
    {c d : List Level} {s : State} (hb : s.busy = true) (hu : s.upc = .start .s1)
    (hc : s.sclIn = ps.map Prod.fst ++ .high :: c) (hs : s.sdaIn = ps.map Prod.snd ++ .high :: d)
    (hn : boundAllows s.cfg ps.length) :
    Runs i (ps.length + 7) s
      ([.rel .sda, .rel .scl] ++ pollEvents ps ++
        [.smp .scl .high, .smp .sda .high, .low .sda, .hold, .low .scl, .hold])
      (K () { s with outScl := .drivenLow, outSda := .drivenLow, waitcnt := ps.length + 1,
                     sclIn := c, sdaIn := d, upc := .start .s7 }) := by
  have r7 := Runs.microDone (x := ()) (place := Upc.start) (K := K) (i := i)
    (s := { s with outScl := .drivenLow, outSda := .drivenLow, waitcnt := ps.length + 1,
                   sclIn := c, sdaIn := d, upc := .start .s7 })
    (m := StartPos.s7.microOp) (ev := [.hold]) hb rfl rfl (H _ .s7 hb rfl) rfl
  have r6 := Runs.micro (p := StartPos.s7) (i := i)
    (s := { s with outScl := .released, outSda := .drivenLow, waitcnt := ps.length + 1,
                   sclIn := c, sdaIn := d, upc := .start .s6 })
    (m := StartPos.s6.microOp) (ev := [.low .scl]) hb rfl rfl (H _ .s6 hb rfl) rfl r7
  have r5 := Runs.micro (p := StartPos.s6) (i := i)
    (s := { s with outScl := .released, outSda := .drivenLow, waitcnt := ps.length + 1,
                   sclIn := c, sdaIn := d, upc := .start .s5 })
    (m := StartPos.s5.microOp) (ev := [.hold]) hb rfl rfl (H _ .s5 hb rfl) rfl r6
  have r4 := Runs.micro (p := StartPos.s5) (i := i)
    (s := { s with outScl := .released, outSda := .released, waitcnt := ps.length + 1,
                   sclIn := c, sdaIn := d, upc := .start .s4 })
    (m := StartPos.s4.microOp) (ev := [.low .sda]) hb rfl rfl (H _ .s4 hb rfl) rfl r5
  have r3 := start_wait H hf (c := c) (d := d)
    (s := { s with outScl := .released, outSda := .released, waitcnt := 0, upc := .start .s3 })
    hb rfl rfl rfl hc hs (by simpa using hn) (by simpa using r4)
  have r2 := Runs.micro (p := StartPos.s3) (i := i)
    (s := { s with outSda := .released, upc := .start .s2 })
    (m := StartPos.s2.microOp) (ev := [.rel .scl]) hb rfl rfl (H _ .s2 hb rfl) rfl r3
  have r1 := Runs.micro (p := StartPos.s2) (i := i) (s := s)
    (m := StartPos.s1.microOp) (ev := [.rel .sda]) hb (by simp [microOpOf, hu]) rfl (H _ .s1 hb hu)
    rfl r2
  simpa [StartPos.microOp, Nat.add_assoc] using r1

/-! ### `stop()` (R107) -/

/-- The wait P5 (R96, R107). -/
theorem stop_wait {i : Instr} {after : Closing}
    {K : Unit → State → Host.Outcome State Fault Refusal}
    (H : ∀ t p, t.busy = true → t.upc = .stop after p →
      exec i t = resume (stopStep p t) (.stop after) K)
    {ps : List (Level × Level)} (hf : ∀ q ∈ ps, bothHigh q.1 q.2 = .low) {c d : List Level} :
    ∀ {s : State}, s.busy = true → s.upc = .stop after .p5 →
      s.outScl = .released → s.outSda = .released →
      s.sclIn = ps.map Prod.fst ++ .high :: c → s.sdaIn = ps.map Prod.snd ++ .high :: d →
      boundAllows s.cfg (s.waitcnt + ps.length) →
      Runs i (ps.length + 1) s (pollEvents ps ++ [.smp .scl .high, .smp .sda .high])
        (K () { s with waitcnt := s.waitcnt + ps.length + 1, sclIn := c, sdaIn := d,
                       upc := .stop after .p5 }) := by
  induction ps with
  | nil =>
    intro s hb hu ho hd hc hs _
    have hp := poll_both_script ho hd hc hs
    have hev : StopPos.p5.microOp.events s = [.smp .scl .high, .smp .sda .high] := by
      simp [StopPos.microOp, MicroOp.events, sample, State.out, draw, State.answers,
        State.setAnswers, ho, hd, hc, hs]
    have := Runs.microDone (x := ()) (m := StopPos.p5.microOp) hb (by simp [microOpOf, hu]) hev
      (H s .p5 hb hu) (by simp [stopStep, StopPos.microOp, hp, bothHigh, afterPoll_high]; rfl)
    rw [hu] at this
    simpa [pollEvents] using this
  | cons q ps ih =>
    intro s hb hu ho hd hc hs hn
    have hp := poll_both_script (a := q.1) (b := q.2) ho hd
      (by simpa using hc) (by simpa using hs)
    have hq : bothHigh q.1 q.2 = .low := hf q (List.mem_cons_self ..)
    have hev : StopPos.p5.microOp.events s = [.smp .scl q.1, .smp .sda q.2] := by
      simp [StopPos.microOp, MicroOp.events, sample, State.out, draw, State.answers,
        State.setAnswers, ho, hd, hc, hs]
    have hx : waitExpired { s with
        waitcnt := s.waitcnt + 1, sclIn := ps.map Prod.fst ++ .high :: c,
        sdaIn := ps.map Prod.snd ++ .high :: d } = false :=
      not_expired hn (by simp)
    have hrest := ih (fun x hx => hf x (List.mem_cons_of_mem _ hx))
      (s := { s with waitcnt := s.waitcnt + 1, sclIn := ps.map Prod.fst ++ .high :: c,
                     sdaIn := ps.map Prod.snd ++ .high :: d, upc := .stop after .p5 })
      hb rfl ho hd rfl rfl (by simpa [Nat.add_assoc, Nat.add_comm 1] using hn)
    have := Runs.micro (p := StopPos.p5) (m := StopPos.p5.microOp) hb (by simp [microOpOf, hu]) hev
      (H s .p5 hb hu)
      (by simp only [stopStep, StopPos.microOp, perform_wait, hp, hq, afterPoll_low hx]; rfl) hrest
    simpa [pollEvents, Nat.add_assoc, Nat.add_comm 1] using this

/-- P1 to P5 (R107). -/
theorem stop_runs_p1 {i : Instr} {after : Closing}
    {K : Unit → State → Host.Outcome State Fault Refusal}
    (H : ∀ t p, t.busy = true → t.upc = .stop after p →
      exec i t = resume (stopStep p t) (.stop after) K)
    {ps : List (Level × Level)} (hf : ∀ q ∈ ps, bothHigh q.1 q.2 = .low)
    {c d : List Level} {s : State} (hb : s.busy = true) (hu : s.upc = .stop after .p1)
    (hc : s.sclIn = ps.map Prod.fst ++ .high :: c) (hs : s.sdaIn = ps.map Prod.snd ++ .high :: d)
    (hn : boundAllows s.cfg ps.length) :
    Runs i (ps.length + 5) s
      ([.rel .scl, .hold, .rel .sda, .hold] ++ pollEvents ps ++
        [.smp .scl .high, .smp .sda .high])
      (K () { s with outScl := .released, outSda := .released, waitcnt := ps.length + 1,
                     sclIn := c, sdaIn := d, upc := .stop after .p5 }) := by
  have r5 := stop_wait H hf (c := c) (d := d)
    (s := { s with outScl := .released, outSda := .released, waitcnt := 0, upc := .stop after .p5 })
    hb rfl rfl rfl hc hs (by simpa using hn)
  have r4 := Runs.micro (p := StopPos.p5) (i := i)
    (s := { s with outScl := .released, outSda := .released, upc := .stop after .p4 })
    (m := StopPos.p4.microOp) (ev := [.hold]) hb rfl rfl (H _ .p4 hb rfl) rfl r5
  have r3 := Runs.micro (p := StopPos.p4) (i := i)
    (s := { s with outScl := .released, upc := .stop after .p3 })
    (m := StopPos.p3.microOp) (ev := [.rel .sda]) hb rfl rfl (H _ .p3 hb rfl) rfl r4
  have r2 := Runs.micro (p := StopPos.p3) (i := i)
    (s := { s with outScl := .released, upc := .stop after .p2 })
    (m := StopPos.p2.microOp) (ev := [.hold]) hb rfl rfl (H _ .p2 hb rfl) rfl r3
  have r1 := Runs.micro (p := StopPos.p2) (i := i) (s := s)
    (m := StopPos.p1.microOp) (ev := [.rel .scl]) hb (by simp [microOpOf, hu]) rfl
    (H _ .p1 hb hu) rfl r2
  simpa [Nat.add_assoc] using r1

/-- The events of P0, where P_STOP_PREDRIVE asks for it (R113). -/
def predriveEvents (p : Params) : List Event := if p.stopPredrive then [.low .sda] else []

/-- `stop()` from any line state, its wait failing `ps.length` times (R107, R108, R113). -/
theorem stop_runs {i : Instr} {after : Closing}
    {K : Unit → State → Host.Outcome State Fault Refusal}
    (H : ∀ t p, t.busy = true → t.upc = .stop after p →
      exec i t = resume (stopStep p t) (.stop after) K)
    {ps : List (Level × Level)} (hf : ∀ q ∈ ps, bothHigh q.1 q.2 = .low)
    {c d : List Level} {s : State} (hb : s.busy = true)
    (hu : s.upc = .stop after (stopEntry s.cfg))
    (hc : s.sclIn = ps.map Prod.fst ++ .high :: c) (hs : s.sdaIn = ps.map Prod.snd ++ .high :: d)
    (hn : boundAllows s.cfg ps.length) :
    Runs i ((predriveEvents s.cfg).length + (ps.length + 5)) s
      (predriveEvents s.cfg ++ ([.rel .scl, .hold, .rel .sda, .hold] ++ pollEvents ps ++
        [.smp .scl .high, .smp .sda .high]))
      (K () { s with outScl := .released, outSda := .released, waitcnt := ps.length + 1,
                     sclIn := c, sdaIn := d, upc := .stop after .p5 }) := by
  cases hp : s.cfg.stopPredrive
  · have hu' : s.upc = .stop after .p1 := by simpa [stopEntry, hp] using hu
    simpa [predriveEvents, hp] using stop_runs_p1 H hf hb hu' hc hs hn
  · have hu' : s.upc = .stop after .p0 := by simpa [stopEntry, hp] using hu
    have r1 := stop_runs_p1 H hf (s := { s with outSda := .drivenLow, upc := .stop after .p1 })
      (c := c) (d := d) hb rfl hc hs hn
    have r0 := Runs.micro (p := StopPos.p1) (i := i) (s := s)
      (m := StopPos.p0.microOp) (ev := [.low .sda]) hb (by simp [microOpOf, hu']) rfl
      (H _ .p0 hb hu') rfl r1
    simpa [predriveEvents, hp, Nat.add_comm 1] using r0

/-! ### `send_byte(b)` (R120) -/

/-- B1: "release for 1, drive-low for 0" (R120). -/
theorem perform_dataBitOp (bit : Bool) (s : State) :
    perform (dataBitOp bit) s
      = (.high, { s with outSda := if bit then .released else .drivenLow }) := by
  cases bit <;> rfl

/-- One data bit, then the rest from the place it leads to (R120, B1 to B5). -/
theorem send_bit {i : Instr} {site : SendSite} {b : Byte}
    {K : Bool → State → Host.Outcome State Fault Refusal}
    (H : ∀ t p, t.busy = true → t.upc = .send site b p →
      exec i t = resume (sendStep b p t) (.send site b) K)
    {s : State} (hb : s.busy = true) (hu : s.upc = .send site b .b1)
    {n : BitVec 4} {p : SendPos}
    (hp : nextSendBit { s with
            outScl := .drivenLow
            outSda := if bitAt b s.bitcnt then .released else .drivenLow
            upc := .send site b .b5 }
        = ({ s with
            outScl := .drivenLow
            outSda := if bitAt b s.bitcnt then .released else .drivenLow
            bitcnt := n
            upc := .send site b .b5 }, .go p))
    {k : Nat} {tr : List Event} {o : Host.Outcome State Fault Refusal}
    (r : Runs i k { s with
            outScl := .drivenLow
            outSda := if bitAt b s.bitcnt then .released else .drivenLow
            bitcnt := n
            upc := .send site b p } tr o) :
    Runs i (k + 5) s (blockBit (bitAt b s.bitcnt) ++ tr) o := by
  have r5 := Runs.micro (p := p) (i := i)
    (s := { s with
      outScl := .released
      outSda := if bitAt b s.bitcnt then .released else .drivenLow
      upc := .send site b .b5 })
    (m := SendPos.b5.microOp (bitAt b s.bitcnt)) (ev := [.low .scl]) hb rfl rfl
    (H _ .b5 hb rfl) hp r
  have r4 := Runs.micro (p := SendPos.b5) (i := i)
    (s := { s with
      outScl := .released
      outSda := if bitAt b s.bitcnt then .released else .drivenLow
      upc := .send site b .b4 })
    (m := SendPos.b4.microOp (bitAt b s.bitcnt)) (ev := [.hold]) hb rfl rfl
    (H _ .b4 hb rfl) rfl r5
  have r3 := Runs.micro (p := SendPos.b4) (i := i)
    (s := { s with
      outSda := if bitAt b s.bitcnt then .released else .drivenLow
      upc := .send site b .b3 })
    (m := SendPos.b3.microOp (bitAt b s.bitcnt)) (ev := [.rel .scl]) hb rfl rfl
    (H _ .b3 hb rfl) rfl r4
  have r2 := Runs.micro (p := SendPos.b3) (i := i)
    (s := { s with
      outSda := if bitAt b s.bitcnt then .released else .drivenLow
      upc := .send site b .b2 })
    (m := SendPos.b2.microOp (bitAt b s.bitcnt)) (ev := [.hold]) hb rfl rfl
    (H _ .b2 hb rfl) rfl r3
  have r1 := Runs.micro (p := SendPos.b2) (i := i) (s := s)
    (m := SendPos.b1.microOp (bitAt b s.bitcnt))
    (ev := [if bitAt b s.bitcnt then .rel .sda else .low .sda]) hb (by simp [microOpOf, hu])
    (by cases bitAt b s.bitcnt <;> rfl) (H _ .b1 hb hu)
    (by simp only [sendStep, SendPos.microOp, perform_dataBitOp]; rfl) r2
  exact r1

/-- The wait A3: `n` polls that find the clock LOW, then one that finds it HIGH (R96, R120). -/
theorem send_wait {i : Instr} {site : SendSite} {b : Byte}
    {K : Bool → State → Host.Outcome State Fault Refusal}
    (H : ∀ t p, t.busy = true → t.upc = .send site b p →
      exec i t = resume (sendStep b p t) (.send site b) K)
    {n : Nat} {c : List Level} {k : Nat} {tr : List Event}
    {o : Host.Outcome State Fault Refusal} :
    ∀ {s : State}, s.busy = true → s.upc = .send site b .a3 → s.outScl = .released →
      s.sclIn = List.replicate n .low ++ .high :: c →
      boundAllows s.cfg (s.waitcnt + n) →
      Runs i k { s with waitcnt := s.waitcnt + n + 1, sclIn := c, upc := .send site b .a4 } tr o →
      Runs i (n + 1 + k) s (List.replicate n (.smp .scl .low) ++ .smp .scl .high :: tr) o := by
  induction n with
  | zero =>
    intro s hb hu ho hc _ r
    have hp := poll_scl_script ho hc
    have hev : (SendPos.a3.microOp (bitAt b s.bitcnt)).events s = [.smp .scl .high] := by
      simp [SendPos.microOp, MicroOp.events, sample, State.out, draw, State.answers, ho, hc]
    have := Runs.micro (p := SendPos.a4) (m := SendPos.a3.microOp (bitAt b s.bitcnt)) hb
      (by simp [microOpOf, hu]) hev
      (H s .a3 hb hu) (by simp [sendStep, SendPos.microOp, hp, afterPoll_high]; rfl) r
    simpa [Nat.add_comm] using this
  | succ n ih =>
    intro s hb hu ho hc hn r
    have hc' : s.sclIn = .low :: (List.replicate n .low ++ .high :: c) := by
      simpa [List.replicate_succ] using hc
    have hp := poll_scl_script ho hc'
    have hev : (SendPos.a3.microOp (bitAt b s.bitcnt)).events s = [.smp .scl .low] := by
      simp [SendPos.microOp, MicroOp.events, sample, State.out, draw, State.answers, ho, hc']
    have hx : waitExpired { s with
        waitcnt := s.waitcnt + 1, sclIn := List.replicate n .low ++ .high :: c } = false :=
      not_expired hn (by simp)
    have hrest := ih
      (s := { s with waitcnt := s.waitcnt + 1, sclIn := List.replicate n .low ++ .high :: c,
                     upc := .send site b .a3 })
      hb rfl ho rfl (by simpa [Nat.add_assoc, Nat.add_comm 1] using hn)
      (by simpa [Nat.add_assoc, Nat.add_comm 1] using r)
    have := Runs.micro (p := SendPos.a3) (m := SendPos.a3.microOp (bitAt b s.bitcnt)) hb
      (by simp [microOpOf, hu]) hev (H s .a3 hb hu)
      (by simp only [sendStep, SendPos.microOp, perform_wait, hp, afterPoll_low hx]; rfl) hrest
    simpa [List.replicate_succ, Nat.add_right_comm] using this

/-- The acknowledge phase A1 to A5, the clock stretched for `n` polls (R120). -/
theorem send_ack {i : Instr} {site : SendSite} {b : Byte}
    {K : Bool → State → Host.Outcome State Fault Refusal}
    (H : ∀ t p, t.busy = true → t.upc = .send site b p →
      exec i t = resume (sendStep b p t) (.send site b) K)
    {n : Nat} {v : Level} {c d : List Level} {s : State} (hb : s.busy = true)
    (hu : s.upc = .send site b .a1)
    (hc : s.sclIn = List.replicate n .low ++ .high :: c) (hd : s.sdaIn = v :: d)
    (hn : boundAllows s.cfg n) :
    Runs i (n + 5) s
      ([.rel .sda, .rel .scl] ++ List.replicate n (.smp .scl .low) ++
        [.smp .scl .high, .smp .sda v, .low .scl])
      (K (ackOf v) { s with
        outScl := .drivenLow, outSda := .released, waitcnt := n + 1, ack := ackOf v,
        sclIn := c, sdaIn := d, upc := .send site b (.a5 (ackOf v)) }) := by
  have r5 := Runs.microDone (x := ackOf v) (place := Upc.send site b) (K := K) (i := i)
    (s := { s with
      outScl := .released, outSda := .released, waitcnt := n + 1, ack := ackOf v,
      sclIn := c, sdaIn := d, upc := .send site b (.a5 (ackOf v)) })
    (m := (SendPos.a5 (ackOf v)).microOp (bitAt b s.bitcnt)) (ev := [.low .scl]) hb rfl rfl
    (H _ (.a5 (ackOf v)) hb rfl) rfl
  have r4 := Runs.micro (p := SendPos.a5 (ackOf v)) (i := i)
    (s := { s with
      outScl := .released, outSda := .released, waitcnt := n + 1,
      sclIn := c, upc := .send site b .a4 })
    (m := SendPos.a4.microOp (bitAt b s.bitcnt)) (ev := [.smp .sda v]) hb rfl
    (by simp [SendPos.microOp, MicroOp.events, sample, State.out, draw, State.answers, hd])
    (H _ .a4 hb rfl)
    (by simp [sendStep, SendPos.microOp, sample, State.out, draw, State.answers, State.setAnswers,
          State.setAck, hd]; rfl) r5
  have r3 := send_wait H (n := n) (c := c)
    (s := { s with
      outScl := .released, outSda := .released, waitcnt := 0, upc := .send site b .a3 })
    hb rfl rfl hc (by simpa using hn) (by simpa using r4)
  have r2 := Runs.micro (p := SendPos.a3) (i := i)
    (s := { s with outSda := .released, upc := .send site b .a2 })
    (m := SendPos.a2.microOp (bitAt b s.bitcnt)) (ev := [.rel .scl]) hb rfl rfl
    (H _ .a2 hb rfl) rfl r3
  have r1 := Runs.micro (p := SendPos.a2) (i := i) (s := s)
    (m := SendPos.a1.microOp (bitAt b s.bitcnt)) (ev := [.rel .sda]) hb (by simp [microOpOf, hu]) rfl
    (H _ .a1 hb hu) rfl r2
  simpa [SendPos.microOp, Nat.add_assoc] using r1

/-- The events of the eight data bits of `send_byte(b)`, bit 7 first (R53, R120). -/
def dataBitEvents (b : Byte) : List Event :=
  blockBit (b.getLsbD 7) ++ blockBit (b.getLsbD 6) ++ blockBit (b.getLsbD 5) ++
    blockBit (b.getLsbD 4) ++ blockBit (b.getLsbD 3) ++ blockBit (b.getLsbD 2) ++
    blockBit (b.getLsbD 1) ++ blockBit (b.getLsbD 0)

/-- The events of an acknowledge phase whose clock is stretched for `n` polls (R120). -/
def ackEvents (n : Nat) (v : Level) : List Event :=
  [.rel .sda, .rel .scl] ++ List.replicate n (.smp .scl .low) ++
    [.smp .scl .high, .smp .sda v, .low .scl]

/-- `send_byte(b)` from any line state, the slave stretching the acknowledge for `n` polls and answering
`v` (R120). -/
theorem send_runs {i : Instr} {site : SendSite} {b : Byte}
    {K : Bool → State → Host.Outcome State Fault Refusal}
    (H : ∀ t p, t.busy = true → t.upc = .send site b p →
      exec i t = resume (sendStep b p t) (.send site b) K)
    {n : Nat} {v : Level} {c d : List Level} {s : State} (hb : s.busy = true)
    (hu : s.upc = .send site b .b1) (h7 : s.bitcnt = 7)
    (hc : s.sclIn = List.replicate n .low ++ .high :: c) (hd : s.sdaIn = v :: d)
    (hn : boundAllows s.cfg n) :
    Runs i (n + 45) s (dataBitEvents b ++ ackEvents n v)
      (K (ackOf v) { s with
        outScl := .drivenLow, outSda := .released, bitcnt := 0, waitcnt := n + 1, ack := ackOf v,
        sclIn := c, sdaIn := d, upc := .send site b (.a5 (ackOf v)) }) := by
  have ra := send_ack H (n := n) (v := v) (c := c) (d := d)
    (s := { s with outScl := .drivenLow
                   outSda := if bitAt b 0 then .released else .drivenLow
                   bitcnt := 0, upc := .send site b .a1 }) hb rfl hc hd hn
  have r0 := send_bit H (s := { s with outScl := .drivenLow
                                       outSda := if bitAt b 1 then .released else .drivenLow
                                       bitcnt := 0, upc := .send site b .b1 })
    (n := 0) (p := .a1) hb rfl rfl ra
  have r1 := send_bit H (s := { s with outScl := .drivenLow
                                       outSda := if bitAt b 2 then .released else .drivenLow
                                       bitcnt := 1, upc := .send site b .b1 })
    (n := 0) (p := .b1) hb rfl (by simp [nextSendBit]) r0
  have r2 := send_bit H (s := { s with outScl := .drivenLow
                                       outSda := if bitAt b 3 then .released else .drivenLow
                                       bitcnt := 2, upc := .send site b .b1 })
    (n := 1) (p := .b1) hb rfl (by simp [nextSendBit]) r1
  have r3 := send_bit H (s := { s with outScl := .drivenLow
                                       outSda := if bitAt b 4 then .released else .drivenLow
                                       bitcnt := 3, upc := .send site b .b1 })
    (n := 2) (p := .b1) hb rfl (by simp [nextSendBit]) r2
  have r4 := send_bit H (s := { s with outScl := .drivenLow
                                       outSda := if bitAt b 5 then .released else .drivenLow
                                       bitcnt := 4, upc := .send site b .b1 })
    (n := 3) (p := .b1) hb rfl (by simp [nextSendBit]) r3
  have r5 := send_bit H (s := { s with outScl := .drivenLow
                                       outSda := if bitAt b 6 then .released else .drivenLow
                                       bitcnt := 5, upc := .send site b .b1 })
    (n := 4) (p := .b1) hb rfl (by simp [nextSendBit]) r4
  have r6 := send_bit H (s := { s with outScl := .drivenLow
                                       outSda := if bitAt b 7 then .released else .drivenLow
                                       bitcnt := 6, upc := .send site b .b1 })
    (n := 5) (p := .b1) hb rfl (by simp [nextSendBit]) r5
  have r7 := send_bit H (s := s) (n := 6) (p := .b1) hb hu
    (by simp [nextSendBit, h7]) (by rw [h7]; exact r6)
  simpa [dataBitEvents, ackEvents, bitAt, h7, Nat.add_assoc] using r7

end Sys2Proof.Machine
end

