-- ==== Sys2Proof/Laws/RunsReceive.lean ====
section
/-! SUPPORT. Whole runs of `receive_byte(a)` (R125), once and for every command that calls it, with their
traces; and the shift law of the received byte (R126, R151 (b)). -/

namespace Sys2Proof.Machine

/-- One received bit, then the rest from the place it leads to (R125, C1 to C5). -/
theorem recv_bit {i : Instr} {a : Bool} {K : Byte → State → Host.Outcome State Fault Refusal}
    (H : ∀ t p, t.busy = true → t.upc = .recv a p →
      exec i t = resume (recvStep a p t) (.recv a) K)
    {s : State} (hb : s.busy = true) (hu : s.upc = .recv a .c1) (ho : s.outSda = .released)
    {v : Level} {d : List Level} (hd : s.sdaIn = v :: d)
    {n : BitVec 4} {p : RecvPos}
    (hp : nextRecvBit a { s with
            outScl := .drivenLow, acc := shiftIn s.acc v, sdaIn := d, upc := .recv a .c5 }
        = ({ s with
            outScl := .drivenLow, acc := shiftIn s.acc v, sdaIn := d, bitcnt := n,
            upc := .recv a .c5 }, .go p))
    {k : Nat} {tr : List Event} {o : Host.Outcome State Fault Refusal}
    (r : Runs i k { s with
            outScl := .drivenLow, acc := shiftIn s.acc v, sdaIn := d, bitcnt := n,
            upc := .recv a p } tr o) :
    Runs i (k + 5) s (blockRecvBit v ++ tr) o := by
  have r5 := Runs.micro (p := p) (i := i)
    (s := { s with
      outScl := .drivenLow, acc := shiftIn s.acc v, sdaIn := d, upc := .recv a .c5 })
    (m := RecvPos.c5.microOp) (ev := [.hold]) hb rfl rfl (H _ .c5 hb rfl) hp r
  have r4 := Runs.micro (p := RecvPos.c5) (i := i)
    (s := { s with
      outScl := .released, acc := shiftIn s.acc v, sdaIn := d, upc := .recv a .c4 })
    (m := RecvPos.c4.microOp) (ev := [.low .scl]) hb rfl rfl (H _ .c4 hb rfl) rfl r5
  have hsm : sample .sda { s with outScl := .released, upc := .recv a .c3 }
      = (v, { s with outScl := .released, sdaIn := d, upc := .recv a .c3 }) := sample_script ho hd
  have r3 := Runs.micro (p := RecvPos.c4) (i := i)
    (s := { s with outScl := .released, upc := .recv a .c3 })
    (m := RecvPos.c3.microOp) (ev := [.smp .sda v]) hb rfl
    (by simp [RecvPos.microOp, MicroOp.events, sample, State.out, draw, State.answers, ho, hd])
    (H _ .c3 hb rfl)
    (by simp only [recvStep, RecvPos.microOp, perform_sample, hsm]; rfl) r4
  have r2 := Runs.micro (p := RecvPos.c3) (i := i)
    (s := { s with outScl := .released, upc := .recv a .c2 })
    (m := RecvPos.c2.microOp) (ev := [.hold]) hb rfl rfl (H _ .c2 hb rfl) rfl r3
  have r1 := Runs.micro (p := RecvPos.c2) (i := i) (s := s)
    (m := RecvPos.c1.microOp) (ev := [.rel .scl]) hb (by simp [microOpOf, hu]) rfl (H _ .c1 hb hu)
    rfl r2
  exact r1

/-- The acknowledge phase from K2 on (R125). -/
theorem recv_ack_k2 {i : Instr} {a : Bool} {K : Byte → State → Host.Outcome State Fault Refusal}
    (H : ∀ t p, t.busy = true → t.upc = .recv a p →
      exec i t = resume (recvStep a p t) (.recv a) K)
    {s : State} (hb : s.busy = true) (hu : s.upc = .recv a .k2) :
    Runs i 6 s [.hold, .rel .scl, .hold, .low .scl, .hold, .rel .sda]
      (K s.acc { s with
        outScl := .drivenLow, outSda := .released, data := s.acc, upc := .recv a .k7 }) := by
  have r7 := Runs.microDone (x := s.acc) (place := Upc.recv a) (K := K) (i := i)
    (s := { s with outScl := .drivenLow, upc := .recv a .k7 })
    (m := RecvPos.k7.microOp) (ev := [.rel .sda]) hb rfl rfl (H _ .k7 hb rfl) rfl
  have r6 := Runs.micro (p := RecvPos.k7) (i := i)
    (s := { s with outScl := .drivenLow, upc := .recv a .k6 })
    (m := RecvPos.k6.microOp) (ev := [.hold]) hb rfl rfl (H _ .k6 hb rfl) rfl r7
  have r5 := Runs.micro (p := RecvPos.k6) (i := i)
    (s := { s with outScl := .released, upc := .recv a .k5 })
    (m := RecvPos.k5.microOp) (ev := [.low .scl]) hb rfl rfl (H _ .k5 hb rfl) rfl r6
  have r4 := Runs.micro (p := RecvPos.k5) (i := i)
    (s := { s with outScl := .released, upc := .recv a .k4 })
    (m := RecvPos.k4.microOp) (ev := [.hold]) hb rfl rfl (H _ .k4 hb rfl) rfl r5
  have r3 := Runs.micro (p := RecvPos.k4) (i := i) (s := { s with upc := .recv a .k3 })
    (m := RecvPos.k3.microOp) (ev := [.rel .scl]) hb rfl rfl (H _ .k3 hb rfl) rfl r4
  have r2 := Runs.micro (p := RecvPos.k3) (i := i) (s := s)
    (m := RecvPos.k2.microOp) (ev := [.hold]) hb (by simp [microOpOf, hu]) rfl (H _ .k2 hb hu) rfl r3
  simpa [RecvPos.microOp] using r2

/-- The acknowledge phase: K1 for an ACK, from K2 for a NAK (R125). -/
theorem recv_ack {i : Instr} {a : Bool} {K : Byte → State → Host.Outcome State Fault Refusal}
    (H : ∀ t p, t.busy = true → t.upc = .recv a p →
      exec i t = resume (recvStep a p t) (.recv a) K)
    {s : State} (hb : s.busy = true) (hu : s.upc = .recv a (if a then .k1 else .k2)) :
    Runs i (blockRecvAck a).length s (blockRecvAck a)
      (K s.acc { s with
        outScl := .drivenLow, outSda := .released, data := s.acc, upc := .recv a .k7 }) := by
  cases a
  · exact recv_ack_k2 H hb hu
  · have r2 := recv_ack_k2 H (s := { s with outSda := .drivenLow, upc := .recv true .k2 }) hb rfl
    have r1 := Runs.micro (p := RecvPos.k2) (i := i) (s := s)
      (m := RecvPos.k1.microOp) (ev := [.low .sda]) hb (by simp [microOpOf, hu]) rfl (H _ .k1 hb hu)
      rfl r2
    exact r1

/-- The byte the eight shifts assemble, whatever ACC held (R125, R151 (b)). -/
def shiftAll (acc : Byte) (vs : List Level) : Byte := vs.foldl shiftIn acc

/-- Eight shifts of a byte's levels, bit 7 first, assemble that byte (R126, R151 (b)). -/
theorem shiftAll_byteLevels (acc b : Byte) : shiftAll acc (byteLevels b) = b := by
  have h : ∀ (x : Bool), levelBit (levelOf x) = x := by decide
  apply BitVec.eq_of_getLsbD_eq
  intro j hj
  have hs : ∀ (c : Byte) (x : Bool), shiftIn c (levelOf x) = c <<< 1 ||| (if x then 1 else 0) := by
    intro c x; simp [shiftIn, h]
  have hb : ∀ (x : Bool) (k : Nat) (hk : k < 8),
      (if x then 1#8 else 0#8)[k] = (decide (k = 0) && x) := by
    intro x k hk
    cases x <;> simp
  have hj' : j = 0 ∨ j = 1 ∨ j = 2 ∨ j = 3 ∨ j = 4 ∨ j = 5 ∨ j = 6 ∨ j = 7 := by omega
  simp only [shiftAll, byteLevels, List.foldl, hs]
  rcases hj' with rfl | rfl | rfl | rfl | rfl | rfl | rfl | rfl <;>
    simp [hb]

/-- `receive_byte(a)` from any line state, the environment presenting the byte `b` (R125, R126). -/
theorem recv_runs {i : Instr} {a : Bool} {K : Byte → State → Host.Outcome State Fault Refusal}
    (H : ∀ t p, t.busy = true → t.upc = .recv a p →
      exec i t = resume (recvStep a p t) (.recv a) K)
    {b : Byte} {d : List Level} {s : State} (hb : s.busy = true) (hu : s.upc = .recv a .c0)
    (hd : s.sdaIn = byteLevels b ++ d) :
    Runs i (blockRecv b a).length s (blockRecv b a)
      (K b { s with
        outScl := .drivenLow, outSda := .released, acc := b, bitcnt := 0, data := b,
        sdaIn := d, upc := .recv a .k7 }) := by
  have hacc := shiftAll_byteLevels 0 b
  simp only [shiftAll, byteLevels, List.foldl] at hacc
  have ra := recv_ack H (s := { s with
      outScl := .drivenLow, outSda := .released, acc := b, bitcnt := 0, sdaIn := d,
      upc := .recv a (if a then .k1 else .k2) }) hb rfl
  rw [← hacc] at ra
  generalize hv7 : levelOf (b.getLsbD 7) = v7 at *
  generalize hv6 : levelOf (b.getLsbD 6) = v6 at *
  generalize hv5 : levelOf (b.getLsbD 5) = v5 at *
  generalize hv4 : levelOf (b.getLsbD 4) = v4 at *
  generalize hv3 : levelOf (b.getLsbD 3) = v3 at *
  generalize hv2 : levelOf (b.getLsbD 2) = v2 at *
  generalize hv1 : levelOf (b.getLsbD 1) = v1 at *
  generalize hv0 : levelOf (b.getLsbD 0) = v0 at *
  have r0 := recv_bit H (v := v0) (d := d) (n := 0) (p := if a then .k1 else .k2)
    (s := { s with
      outScl := .drivenLow, outSda := .released, bitcnt := 0, upc := .recv a .c1, sdaIn := v0 :: d
      acc := shiftIn (shiftIn (shiftIn (shiftIn (shiftIn (shiftIn (shiftIn 0 v7) v6) v5) v4) v3) v2) v1 })
    hb rfl rfl rfl (by simp [nextRecvBit]) ra
  have r1 := recv_bit H (v := v1) (d := v0 :: d) (n := 0) (p := .c1)
    (s := { s with
      outScl := .drivenLow, outSda := .released, bitcnt := 1, upc := .recv a .c1
      sdaIn := v1 :: v0 :: d
      acc := shiftIn (shiftIn (shiftIn (shiftIn (shiftIn (shiftIn 0 v7) v6) v5) v4) v3) v2 })
    hb rfl rfl rfl (by simp [nextRecvBit]) r0
  have r2 := recv_bit H (v := v2) (d := v1 :: v0 :: d) (n := 1) (p := .c1)
    (s := { s with
      outScl := .drivenLow, outSda := .released, bitcnt := 2, upc := .recv a .c1
      sdaIn := v2 :: v1 :: v0 :: d
      acc := shiftIn (shiftIn (shiftIn (shiftIn (shiftIn 0 v7) v6) v5) v4) v3 })
    hb rfl rfl rfl (by simp [nextRecvBit]) r1
  have r3 := recv_bit H (v := v3) (d := v2 :: v1 :: v0 :: d) (n := 2) (p := .c1)
    (s := { s with
      outScl := .drivenLow, outSda := .released, bitcnt := 3, upc := .recv a .c1
      sdaIn := v3 :: v2 :: v1 :: v0 :: d
      acc := shiftIn (shiftIn (shiftIn (shiftIn 0 v7) v6) v5) v4 })
    hb rfl rfl rfl (by simp [nextRecvBit]) r2
  have r4 := recv_bit H (v := v4) (d := v3 :: v2 :: v1 :: v0 :: d) (n := 3) (p := .c1)
    (s := { s with
      outScl := .drivenLow, outSda := .released, bitcnt := 4, upc := .recv a .c1
      sdaIn := v4 :: v3 :: v2 :: v1 :: v0 :: d
      acc := shiftIn (shiftIn (shiftIn 0 v7) v6) v5 })
    hb rfl rfl rfl (by simp [nextRecvBit]) r3
  have r5 := recv_bit H (v := v5) (d := v4 :: v3 :: v2 :: v1 :: v0 :: d) (n := 4) (p := .c1)
    (s := { s with
      outScl := .drivenLow, outSda := .released, bitcnt := 5, upc := .recv a .c1
      sdaIn := v5 :: v4 :: v3 :: v2 :: v1 :: v0 :: d
      acc := shiftIn (shiftIn 0 v7) v6 })
    hb rfl rfl rfl (by simp [nextRecvBit]) r4
  have r6 := recv_bit H (v := v6) (d := v5 :: v4 :: v3 :: v2 :: v1 :: v0 :: d) (n := 5) (p := .c1)
    (s := { s with
      outScl := .drivenLow, outSda := .released, bitcnt := 6, upc := .recv a .c1
      sdaIn := v6 :: v5 :: v4 :: v3 :: v2 :: v1 :: v0 :: d
      acc := shiftIn 0 v7 })
    hb rfl rfl rfl (by simp [nextRecvBit]) r5
  have hd' : s.sdaIn = v7 :: v6 :: v5 :: v4 :: v3 :: v2 :: v1 :: v0 :: d := by
    rw [hd]
    subst hv7 hv6 hv5 hv4 hv3 hv2 hv1 hv0
    rfl
  have r7 := recv_bit H (v := v7) (d := v6 :: v5 :: v4 :: v3 :: v2 :: v1 :: v0 :: d) (n := 6)
    (p := .c1)
    (s := { s with outSda := .released, bitcnt := 7, acc := 0, upc := .recv a .c1 })
    hb rfl rfl hd' (by simp [nextRecvBit]) r6
  have rc := Runs.micro (p := RecvPos.c1) (i := i) (s := s)
    (m := RecvPos.c0.microOp) (ev := [.rel .sda]) hb (by simp [microOpOf, hu]) rfl (H _ .c0 hb hu)
    rfl r7
  rw [hacc] at rc
  have hlen : (blockRecv b a).length = (blockRecvAck a).length + 5 + 5 + 5 + 5 + 5 + 5 + 5 + 5 + 1 := by
    cases a <;> rfl
  have htr : blockRecv b a = [Event.rel .sda] ++ (blockRecvBit v7 ++ (blockRecvBit v6 ++
      (blockRecvBit v5 ++ (blockRecvBit v4 ++ (blockRecvBit v3 ++ (blockRecvBit v2 ++
      (blockRecvBit v1 ++ (blockRecvBit v0 ++ blockRecvAck a)))))))) := by
    subst hv7 hv6 hv5 hv4 hv3 hv2 hv1 hv0
    simp [blockRecv, byteLevels]
  rw [hlen, htr]
  exact rc

end Sys2Proof.Machine
end

