-- ==== Sys2Proof/Tests/Slice0.lean ====
section
/-! SUPPORT. Tests: the refusals of WellFormed and of the parameters, words decoded, one step of each
command, and a witness for the hypotheses of every statement. Expected results are the spec's vectors
(95_test_vectors.md, cited as V<n>) or are read off the rule named. -/

namespace Sys2Proof.Tests

open Sys2Proof Sys2Proof.Machine Sys2Proof.Safety Sys2Proof.Claims

/-! ### Helpers -/

/-- BUF_CAP = 16, WAIT_LIMIT = some 3 and a sentinel that is no byte, the other parameters as R6's
defaults. -/
def small : Params :=
  { Params.default with bufCap := 16, waitLimit := some 3, emptySentinel := .noByte 0 }

/-- A small block right after reset, with answer scripts. -/
def bus (scl sda : List Level) : State := { State.initial small with sclIn := scl, sdaIn := sda }

/-- `s` with command `i` running at place `u`. -/
def during (i : Instr) (u : Upc) (s : State) : State :=
  { s with cmdr := encode i, busy := true, upc := u }

/-- `s` with drive states (SCL, SDA). -/
def lines (scl sda : Drive) (s : State) : State := { s with outScl := scl, outSda := sda }

/-- `s` with the host about to act. -/
def hosted (a : HostAction) (s : State) : State := { s with host := [a] }

/-- A view of the next state, none where there is none. -/
def view {α σ : Type} (f : σ → α) (o : Host.Outcome σ Fault Refusal) : Option α :=
  match o with
  | .next t => some (f t)
  | .fault _ => none
  | .refused _ => none

/-- The host-visible status of the next state. -/
def statusAfter (o : Host.Outcome State Fault Refusal) : Option Byte := view statusByte o

/-! ### WellFormed and the parameters (R72 (d), R6) -/

-- V1.2, last row: WRITE with N = 17 > BUF_CAP = 16
theorem test_wf_write_too_long : (Instr.write 0x50 17).wf small = false := by decide
theorem test_wf_read_too_long : (Instr.read 0x50 17 true).wf small = false := by decide
theorem test_wf_at_capacity :
    (Instr.write 0x50 16).wf small = true ∧ (Instr.read 0x50 16 false).wf small = true ∧
    (Instr.write 0x7F 255).wf Params.default = true := by decide
theorem test_params_default : Params.default.problem = none ∧ small.problem = none := by decide
theorem test_params_same_pin :
    ({ small with sdaPin := 0 } : Params).problem = some .samePin := by decide
theorem test_params_buf_cap :
    ({ small with bufCap := 0 } : Params).problem = some .bufCapRange ∧
    ({ small with bufCap := 256 } : Params).problem = some .bufCapRange ∧
    ({ small with bufCap := 255 } : Params).problem = none ∧
    ({ small with bufCap := 1 } : Params).problem = none := by decide
theorem test_params_wait_limit :
    ({ small with waitLimit := some 0 } : Params).problem = some .zeroWaitLimit ∧
    ({ small with waitLimit := some 1 } : Params).problem = none := by decide

/-! ### Decoding: the words of V1.1 and V1.2, written out bit by bit from R70 and R73 -/

-- 0001 00000000000 l 00000000 0 0000000
theorem test_decode_release :
    decode 0b00010000000000010000000000000000#32 = .ok (.release .sda) ∧
    decode 0x10000000 = .ok (.release .scl) := by decide
theorem test_decode_driveLow :
    decode 0b00100000000000000000000000000000#32 = .ok (.driveLow .scl) ∧
    decode 0x20010000 = .ok (.driveLow .sda) := by decide
theorem test_decode_readLine :
    decode 0b00110000000000010000000000000000#32 = .ok (.readLine .sda) ∧
    decode 0x30000000 = .ok (.readLine .scl) := by decide
theorem test_decode_start : decode 0b01000000000000000000000000000000#32 = .ok .start := by decide
theorem test_decode_stop : decode 0b01010000000000000000000000000000#32 = .ok .stop := by decide
theorem test_decode_sendByte :
    decode 0b01100000000000001010000000000000#32 = .ok (.sendByte 0xA0) ∧
    decode 0x6000FF00 = .ok (.sendByte 0xFF) := by decide
theorem test_decode_receiveByte :
    decode 0b01110000000000010000000000000000#32 = .ok (.receiveByte true) ∧
    decode 0x70000000 = .ok (.receiveByte false) := by decide
theorem test_decode_write :
    decode 0b10000000000000000000001001010000#32 = .ok (.write 0x50 2) ∧
    decode 0x8000FF7F = .ok (.write 0x7F 255) := by decide
theorem test_decode_read :
    decode 0b10010000000000010000001001010000#32 = .ok (.read 0x50 2 true) ∧
    decode 0x90000250 = .ok (.read 0x50 2 false) := by decide
-- V1.2
theorem test_decode_illegal_opcode :
    decode 0x00000000 = .error .reservedOpcode ∧ decode 0x00000250 = .error .reservedOpcode ∧
    decode 0xA0000000 = .error .reservedOpcode ∧ decode 0xF0000000 = .error .reservedOpcode ∧
    decode 0xFFFFFFFF = .error .reservedZ1 := by decide
theorem test_decode_illegal_reserved :
    decode 0x10020000 = .error .reservedZ1 ∧ decode 0x90020250 = .error .reservedZ1 ∧
    decode 0x98000250 = .error .reservedZ1 ∧ decode 0x800002D0 = .error .reservedZ0 := by decide
theorem test_decode_illegal_unused :
    decode 0x40000001 = .error .unusedAddr ∧ decode 0x40010000 = .error .unusedF ∧
    decode 0x50000100 = .error .unusedN ∧ decode 0x10000100 = .error .unusedN ∧
    decode 0x60010000 = .error .unusedF ∧ decode 0x6000A001 = .error .unusedAddr ∧
    decode 0x70000001 = .error .unusedAddr ∧ decode 0x70000100 = .error .unusedN ∧
    decode 0x80010250 = .error .unusedF := by decide
theorem test_encode :
    encode (.release .sda) = 0x10010000 ∧ encode (.write 0x50 2) = 0x80000250 ∧
    encode (.read 0x7F 255 true) = 0x9001FF7F ∧ encode (.sendByte 0xA0) = 0x6000A000 := by decide
theorem test_decode_table_word :
    decodeTableWord 32 0x70010000 = some (.receiveByte true) ∧
    decodeTableWord 32 0x00000000 = none ∧ decodeTableWord 40 0x70010000 = none := by decide
-- R77's examples
theorem test_assembly :
    (Instr.write 0x50 2).assembly = "WRITE 0x50, 2".toList ∧
    (Instr.release .sda).assembly = "RELEASE SDA".toList ∧
    (Instr.read 0x50 2 true).assembly = "READ 0x50, 2, NOSTOP".toList ∧
    Instr.start.assembly = "START".toList := by decide

/-! ### One step of each command -/

-- V3.4: (L,L), RELEASE SDA gives (L,R)
theorem test_release :
    view (fun t => (t.outScl, t.outSda, t.busy))
      (exec (.release .sda) (during (.release .sda) .line (lines .drivenLow .drivenLow (bus [] []))))
      = some (.drivenLow, .released, false) := by decide
-- V3.2: DRIVE_LOW SDA is idempotent
theorem test_drive_low_idempotent :
    view (fun t => (t.outScl, t.outSda, t.busy))
      (exec (.driveLow .sda) (during (.driveLow .sda) .line (lines .released .drivenLow (bus [] []))))
      = some (.released, .drivenLow, false) := by decide
-- V3.7: READ_LINE SCL on an idle bus, STATUS 0x04
theorem test_read_line_high :
    statusAfter (exec (.readLine .scl) (during (.readLine .scl) .line (bus [.high] [])))
      = some 0x04 := by decide
-- V3.9: the engine's own drive reads LOW, and the script is not used
theorem test_read_line_own_drive :
    view (fun t => (t.lvl, t.outSda, t.sdaIn))
      (exec (.readLine .sda)
        (during (.readLine .sda) .line (lines .released .drivenLow (bus [] [.high]))))
      = some (false, .drivenLow, [.high]) := by decide
-- V4.3, first poll: clock LOW, both samples taken, S3 again
theorem test_start_poll_fails :
    view (fun t => (t.upc, t.waitcnt, t.sclIn, t.sdaIn))
      (exec .start (during .start (.start .s3) (bus [.low, .high] [.high, .low])))
      = some (.start .s3, 1, [.high], [.low]) := by decide
-- R105: S6 drives the clock, the data line staying low
theorem test_start_s6 :
    view (fun t => (t.outScl, t.outSda, t.upc))
      (exec .start (during .start (.start .s6) (lines .released .drivenLow (bus [] []))))
      = some (.drivenLow, .drivenLow, .start .s7) := by decide
-- V4.5: without P_STOP_PREDRIVE, STOP begins at P1
theorem test_stop_entry :
    view (fun t => t.upc) (exec .stop (bus [] [])) = some (.stop .success .p0) ∧
    view (fun t => t.upc) (exec .stop { bus [] [] with cfg := { small with stopPredrive := false } })
      = some (.stop .success .p1) := by decide
-- R97, V7: the third failed poll of P5 with WAIT_LIMIT = some 3, STATUS 0x18
theorem test_stop_bus_stuck :
    statusAfter (exec .stop
      { during .stop (.stop .success .p5) (bus [.high] [.low]) with waitcnt := 2 })
      = some 0x18 := by decide
-- V5.1: 0xA0 has bit 7 set (release) and bit 6 clear (drive low)
theorem test_send_byte_bits :
    view (fun t => t.outSda) (exec (.sendByte 0xA0)
      { during (.sendByte 0xA0) (.send .operand 0xA0 .b1) (lines .drivenLow .drivenLow (bus [] []))
        with bitcnt := 7 }) = some .released ∧
    view (fun t => t.outSda) (exec (.sendByte 0xA0)
      { during (.sendByte 0xA0) (.send .operand 0xA0 .b1) (lines .drivenLow .released (bus [] []))
        with bitcnt := 6 }) = some .drivenLow := by decide
-- V5.1 and V5.3: a LOW sample at A4 is an acknowledge, a HIGH one is not and no error
theorem test_send_byte_ack :
    statusAfter (exec (.sendByte 0xA0)
      (during (.sendByte 0xA0) (.send .operand 0xA0 .a4) (bus [] [.low]))) = some 0x03 ∧
    statusAfter (exec (.sendByte 0xFF)
      (during (.sendByte 0xFF) (.send .operand 0xFF .a4) (bus [] [.high]))) = some 0x01 := by decide
-- V5.7: ACC goes 0x55, 0xAB
theorem test_receive_byte_shift :
    view (fun t => t.acc) (exec (.receiveByte false)
      { during (.receiveByte false) (.recv false .c3) (bus [] [.high]) with acc := 0x55 })
      = some 0xAB := by decide
-- R125: a NAK leaves K1 out
theorem test_receive_byte_nak_skips_k1 :
    view (fun t => t.upc) (exec (.receiveByte false)
      (during (.receiveByte false) (.recv false .c5) (bus [] []))) = some (.recv false .k2) ∧
    view (fun t => t.upc) (exec (.receiveByte true)
      (during (.receiveByte true) (.recv true .c5) (bus [] []))) = some (.recv true .k1) := by decide
-- V6.11 (address byte 0xA0 for 0x50) at the end of start()
theorem test_write_address_byte :
    view (fun t => (t.upc, t.bitcnt))
      (exec (.write 0x50 2) (during (.write 0x50 2) (.start .s7) (bus [] [])))
      = some (.send .address 0xA0 .b1, 7) := by decide
-- V6.6: a NAK of the last byte leads to stop() and NO_ACK_DATA, NWRITTEN = 1
theorem test_write_last_byte_nak :
    view (fun t => (t.upc, t.nwritten)) (exec (.write 0x50 2)
      { during (.write 0x50 2) (.send .data 0xAB (.a5 false)) (bus [] []) with
        idx := 1, nwritten := 1 })
      = some (.stop .nakData .p0, 1) := by decide
-- V6.10: NOSTOP ends after the last byte with the clock driven low
theorem test_read_nostop :
    view (fun t => (t.busy, t.nread, t.outScl, t.outSda)) (exec (.read 0x50 3 true)
      { during (.read 0x50 3 true) (.recv false .k7) (lines .drivenLow .released (bus [] [])) with
        idx := 2, nread := 2, acc := 3 })
      = some (false, 3, .drivenLow, .released) := by decide
-- V6.12: NOSTOP does not suppress the STOP after an address NAK
theorem test_read_nak_with_nostop :
    view (fun t => t.upc) (exec (.read 0x50 2 true)
      (during (.read 0x50 2 true) (.send .address 0xA1 (.a5 false)) (bus [] [])))
      = some (.stop .nakAddress .p0) := by decide

/-! ### The host and the whole machine -/

-- V2.3: ILLEGAL_CMD keeps ACK and LVL, STATUS 0x26
theorem test_illegal_keeps_flags :
    statusAfter (step (hosted (.write 0 0) { bus [] [] with ack := true, lvl := true }))
      = some 0x26 := by decide
-- V2.5: accept of a READ clears NREAD and keeps NWRITTEN
theorem test_accept_clears_nread :
    view (fun t => (t.nread, t.nwritten))
      (step (hosted (.write 0 0x90000250) { bus [] [] with nread := 2, nwritten := 2 }))
      = some (0, 2) := by decide
-- V2.2: TXBUF[0] reads back 0x5A; with BUF_CAP = 16, 0x110 is unmapped
theorem test_txbuf_write :
    view (fun t => hostRead t 0x100) (step (hosted (.write 0x100 0x5A) (bus [] []))) = some 0x5A ∧
    view (fun t => (hostRead t 0x110, t.mem)) (step (hosted (.write 0x110 0x5A) (bus [] [])))
      = some (0, []) := by decide
theorem test_placed_word_runs :
    view (fun t => (t.busy, t.upc)) (step (State.reset.withFetchWord 32 0x40000000))
      = some (true, .start .s1) := by decide
theorem test_reset_status : statusByte State.reset = 0 := by decide
-- R50 to R52: canonical memory
theorem test_memory_sorted :
    Memory.write (Memory.write (Memory.write [] 0x201 1) 0x100 2) 0x201 3
      = [(0x100, 2), (0x201, 3)] := by decide

/-! ### The observer, the counts and the annex -/

-- V4.4 and V4.6: STOP from (L,R), and from an idle bus
theorem test_wire_stop :
    wire .drivenLow .released blockStop = [.stop] ∧
    wire .released .released blockStop = [.start, .stop] := by decide
-- V5.7: AB N
theorem test_wire_receive :
    wire .drivenLow .released (blockRecv 0xAB false) = [.byte 0xAB, .nak] := by decide
-- R216 at the default T_BIT: 8 us, 64 us
theorem test_hold_counts :
    minDuration Params.default blockStart = 8000 ∧
    minDuration Params.default (blockSend 0xA0 .low) = 64000 := by decide
-- V8.2
theorem test_facade_clamps :
    encode (requestCommand Params.default 0x50 20 true) = 0x90000850 ∧
    encode (requestCommand Params.default 0x50 2 false) = 0x90010250 := by decide
-- R166: the unread rest of `buf` stays, and nothing is copied while BUSY = 1
theorem test_facade_request_done :
    (requestDone ⟨[1, 2, 3, 4, 5, 6, 7, 8], 3, 2⟩
        { bus [] [] with nread := 2, mem := [(0x200, 9), (0x201, 10)] }
      = some ⟨[9, 10, 3, 4, 5, 6, 7, 8], 2, 0⟩) ∧
    requestDone (Facade.initial small) (during .stop (.stop .success .p5) (bus [] [])) = none := by
  decide
-- V8.1: the third byte, then the sentinel
theorem test_facade_reads :
    Facade.readNext small ⟨[1, 2, 3, 0, 0, 0, 0, 0], 3, 2⟩ = (.byte 3, ⟨[1, 2, 3, 0, 0, 0, 0, 0], 3, 3⟩) ∧
    Facade.readNext small ⟨[1, 2, 3, 0, 0, 0, 0, 0], 3, 3⟩
      = (.noByte 0, ⟨[1, 2, 3, 0, 0, 0, 0, 0], 3, 3⟩) ∧
    (Facade.initial small).wf small ∧ ¬ Facade.wf small ⟨[], 8, 0⟩ := by decide
-- R80: 255 bytes are one command at the default BUF_CAP, 256 are none (N14)
theorem test_call_write_limits :
    (callWrite Params.default 0x50 (List.replicate 255 0)).isSome = true ∧
    callWrite Params.default 0x50 (List.replicate 256 0) = none ∧
    callWrite small 0x50 [0x10] = some [.write 0x100 0x10, .write 0 0x80000150] :=
  ⟨by rw [callWrite, if_pos (by rw [List.length_replicate]; decide)]; rfl,
    by rw [callWrite, if_neg (by rw [List.length_replicate]; decide)], by decide⟩
-- R80, R143: a read of 0 bytes; no result while BUSY = 1
theorem test_call_results :
    view (·.1) (apiRead 0x50 0 0 (bus [] [])) = some (some (.ok, [], 0)) ∧
    (writeResult (during .start (.start .s3) (bus [] []))).isNone = true ∧
    (readResult (during .start (.start .s3) (bus [] []))).isNone = true := by decide

/-! ### Witnesses: a state and operands that meet the hypotheses of each statement -/

/-- A command word and what it decodes to. -/
theorem test_witness_EncodeOfDecode : decode 0x80000250 = .ok (.write 0x50 2) := by decide
theorem test_witness_PlacedWordIsNext : decode 0x40000000 = .ok .start := by decide

theorem legal_word_16 : legalWord small 0x80001050 := by
  simp [legalWord, opLegal, fUnused, nUnused, addrUnused]
  decide

theorem illegal_word_17 : ¬ legalWord small 0x80001150 := by
  intro h
  exact absurd (h.2.2.2.2.2.2 (by decide)) (by decide)

-- N = 16 is the last legal length of BUF_CAP = 16, N = 17 the first illegal one
theorem test_witness_LegalCommandsAreExactly :
    (bus [] []).busy = false ∧ legalWord (bus [] []).cfg 0x80001050 ∧
      ¬ legalWord (bus [] []).cfg 0x80001150 :=
  ⟨rfl, legal_word_16, illegal_word_17⟩

theorem test_witness_MatchMaskSelectsTheRow :
    (0x80000250 : Word) &&& (rowMatchMask (.write 0 0)).2 = (rowMatchMask (.write 0 0)).1 ∧
    ¬ (0x80000250 : Word) &&& (rowMatchMask (.read 0 0 false)).2
      = (rowMatchMask (.read 0 0 false)).1 := by decide

-- one per clause, in their order
theorem test_witness_StepRunsDecodedCommand :
    ((hosted (.write 0 0x40000000) (bus [] [])).host = .write 0 0x40000000 :: [] ∧
      (bus [] []).busy = false ∧ decode 0x40000000 = .ok .start) ∧
    ((during .start (.start .s1) (bus [] [])).host = [] ∧
      (during .start (.start .s1) (bus [] [])).busy = true ∧
      decode (during .start (.start .s1) (bus [] [])).cmdr = .ok .start) ∧
    ((hosted .wait (during .start (.start .s1) (bus [] []))).host = .wait :: [] ∧
      (hosted .wait (during .start (.start .s1) (bus [] []))).busy = true) ∧
    ((bus [] []).host = [] ∧ (bus [] []).busy = false) ∧
    ((hosted .wait (bus [] [])).host = .wait :: [] ∧ (hosted .wait (bus [] [])).busy = false) ∧
    (hosted (.read 1) (bus [] [])).host = .read 1 :: [] := by decide

-- the first and the last index of the windows, and the numbers beside them
theorem test_witness_HostReadMap :
    0 < small.bufCap ∧ 15 < small.bufCap ∧ ¬ 16 < small.bufCap ∧
    (∀ k < small.bufCap, 5 ≠ 0x100 + k ∧ 5 ≠ 0x200 + k) ∧
    (∀ k < small.bufCap, 0x110 ≠ 0x100 + k ∧ 0x110 ≠ 0x200 + k) ∧
    (∀ k < small.bufCap, 0x1FF ≠ 0x100 + k ∧ 0x1FF ≠ 0x200 + k) := by decide

theorem test_witness_HostWriteEffect :
    ((hosted (.write 0x10F 5) (bus [] [])).host = .write 0x10F 5 :: [] ∧ 15 < small.bufCap ∧
      0x10F = 0x100 + 15 ∧ (hosted (.write 0x10F 5) (bus [] [])).busy = false) ∧
    ((hosted (.write 0x110 5) (bus [] [])).host = .write 0x110 5 :: [] ∧ 0x110 ≠ 0 ∧
      ∀ k < small.bufCap, 0x110 ≠ 0x100 + k) ∧
    (∀ k < small.bufCap, 1 ≠ 0x100 + k) ∧ ∀ k < small.bufCap, 0x200 ≠ 0x100 + k := by decide

theorem test_witness_StatusLayout :
    (hosted (.write 1 0xFF) (bus [] [])).host = .write 0x001 0xFF :: [] := rfl

theorem test_witness_BusyIgnoresHostWrites :
    (hosted (.write 0 0x50000000) (during .start (.start .s3) (bus [] []))).host
        = .write 0 0x50000000 :: [] ∧
    (hosted (.read 1) (during .start (.start .s3) (bus [] []))).host = .read 1 :: [] ∧
    (during .start (.start .s3) (bus [] [])).busy = true := by decide

-- busy; illegal; one legal word per command, with N = 0 and N = BUF_CAP for WRITE and READ
theorem test_witness_AcceptCommand :
    ((during .start (.start .s3) (bus [] [])).busy = true) ∧
    ((bus [] []).busy = false ∧ ¬ legalWord (bus [] []).cfg 0x80001150) ∧
    (decode 0x10010000 = .ok (.release .sda) ∧ decode 0x20000000 = .ok (.driveLow .scl) ∧
      decode 0x30010000 = .ok (.readLine .sda) ∧ decode 0x40000000 = .ok .start ∧
      decode 0x50000000 = .ok .stop ∧ decode 0x6000FF00 = .ok (.sendByte 0xFF) ∧
      decode 0x70000000 = .ok (.receiveByte false)) ∧
    (decode 0x80000050 = .ok (.write 0x50 0) ∧ (Instr.write 0x50 0).wf (bus [] []).cfg = true) ∧
    (decode 0x80001050 = .ok (.write 0x50 16) ∧ (Instr.write 0x50 16).wf (bus [] []).cfg = true) ∧
    (decode 0x90001050 = .ok (.read 0x50 16 false) ∧
      (Instr.read 0x50 16 false).wf (bus [] []).cfg = true) :=
  ⟨rfl, ⟨rfl, illegal_word_17⟩, by decide, by decide, by decide, by decide⟩

theorem test_witness_ResetValues :
    (hosted .reset (during .start (.start .s3) (bus [] []))).host = .reset :: [] ∧
      ∃ t, step (hosted .reset (during .start (.start .s3) (bus [] []))) = .next t :=
  ⟨rfl, _, rfl⟩

theorem test_witness_BuiltOnlyFromLegalParameters :
    (small.sclPin ≠ small.sdaPin ∧ 1 ≤ small.bufCap ∧ small.bufCap ≤ 255 ∧
      small.waitLimit ≠ some 0) ∧
    ¬ (({ small with bufCap := 256 } : Params).bufCap ≤ 255) := by decide

theorem test_witness_ParametersNeverChange :
    ∃ t, step (hosted .reset (bus [] [])) = .next t := ⟨_, rfl⟩

-- one per clause
theorem test_witness_LevelOfALine :
    (lines .drivenLow .released (bus [] [])).out .scl = .drivenLow ∧
    ((bus [.low] []).out .scl = .released ∧ (bus [.low] []).answers .scl = .low :: []) ∧
    ((bus [] []).out .sda = .released ∧ (bus [] []).answers .sda = []) := by decide

theorem test_witness_OutFollowsTheTrace :
    (∃ t, step (during .start (.start .s4) (bus [] [])) = .next t) ∧
      ∀ rest, (during .start (.start .s4) (bus [] [])).host ≠ .reset :: rest :=
  ⟨⟨_, rfl⟩, fun _ h => by cases h⟩

theorem test_witness_OneLineAtATime :
    engineMoves (during .start (.start .s4) (bus [] [])) = true ∧
      ∃ t, step (during .start (.start .s4) (bus [] [])) = .next t := ⟨rfl, _, rfl⟩

theorem test_witness_ReleaseCompletes : (bus [] []).busy = false := rfl
theorem test_witness_DriveLowCompletes : (bus [] []).busy = false := rfl
-- the three clauses: driven, answered, past the script
theorem test_witness_ReadLineCompletes :
    (bus [] []).busy = false ∧
    (lines .released .drivenLow (bus [] [])).out .sda = .drivenLow ∧
    ((bus [] [.high]).out .sda = .released ∧ (bus [] [.high]).answers .sda = .high :: []) ∧
    ((bus [] []).out .sda = .released ∧ (bus [] []).answers .sda = []) := by decide

/-- Each micro-op of `start()`: at every place of it in each command that calls it. -/
theorem test_witness_StartMicroOps :
    (callsStart .start ∧ callsStart (.write 0x50 2) ∧ callsStart (.read 0x50 2 true)) ∧
    ∀ p, (during .start (.start p) (bus [] [])).busy = true ∧
      (during .start (.start p) (bus [] [])).upc = .start p :=
  ⟨⟨trivial, trivial, trivial⟩, fun _ => ⟨rfl, rfl⟩⟩

theorem test_witness_StopMicroOps :
    (callsStop .stop .success ∧ callsStop (.write 0x50 2) .nakData ∧
      callsStop (.read 0x50 2 true) .nakAddress ∧ callsStop (.read 0x50 2 false) .success) ∧
    ∀ p, (during .stop (.stop .success p) (bus [] [])).busy = true ∧
      (during .stop (.stop .success p) (bus [] [])).upc = .stop .success p :=
  ⟨⟨rfl, trivial, by simp [callsStop], by simp [callsStop]⟩, fun _ => ⟨rfl, rfl⟩⟩

-- B5 at bit 7 and at bit 0; the operation's end
theorem test_witness_SendByteMicroOps :
    (callsSend (.sendByte 0xA0) .operand ∧ callsSend (.write 0x50 2) .data ∧
      callsSend (.read 0x50 2 true) .address) ∧
    (∀ p, (during (.sendByte 0xA0) (.send .operand 0xA0 p) (bus [] [])).upc
      = .send .operand 0xA0 p) ∧
    ({ during (.sendByte 0xA0) (.send .operand 0xA0 .b5) (bus [] []) with bitcnt := 7 } :
      State).bitcnt ≠ 0 ∧
    (during (.sendByte 0xA0) (.send .operand 0xA0 .b5) (bus [] [])).bitcnt = 0 ∧
    (during (.sendByte 0xA0) (.send .operand 0xA0 .b5) (bus [] [])).busy = true :=
  ⟨⟨rfl, by simp [callsSend], rfl⟩, fun _ => rfl, by decide, by decide, rfl⟩

theorem test_witness_ReceiveByteMicroOps :
    (callsRecv (.receiveByte true) ∧ callsRecv (.read 0x50 2 true)) ∧
    (∀ p, (during (.receiveByte true) (.recv true p) (bus [] [])).upc = .recv true p) ∧
    ({ during (.receiveByte true) (.recv true .c5) (bus [] []) with bitcnt := 7 } :
      State).bitcnt ≠ 0 ∧
    (during (.receiveByte true) (.recv true .c5) (bus [] [])).bitcnt = 0 ∧
    (during (.receiveByte true) (.recv true .c5) (bus [] [])).busy = true :=
  ⟨⟨trivial, trivial⟩, fun _ => rfl, by decide, by decide, rfl⟩

/-- WAIT_LIMIT = some 3 leaves up to two failed polls. -/
theorem may_fail_small {n : Nat} (h : n < 3) : mayFail small n := by
  intro k hk
  cases hk
  exact h

-- V4.3's two failed polls, the most that WAIT_LIMIT = some 3 allows
theorem test_witness_StartCompletes :
    (bus [.low, .high, .high] [.high, .low, .high]).busy = false ∧
    allFail [(.low, .high), (.high, .low)] ∧
    mayFail (bus [.low, .high, .high] [.high, .low, .high]).cfg
      [(Level.low, Level.high), (.high, .low)].length ∧
    (bus [.low, .high, .high] [.high, .low, .high]).sclIn
      = [(Level.low, Level.high), (.high, .low)].map Prod.fst ++ .high :: [] ∧
    (bus [.low, .high, .high] [.high, .low, .high]).sdaIn
      = [(Level.low, Level.high), (.high, .low)].map Prod.snd ++ .high :: [] :=
  ⟨rfl, by simp [allFail], may_fail_small (by decide), rfl, rfl⟩

theorem test_witness_StopCompletes :
    (bus [.high] [.high]).busy = false ∧ allFail [] ∧ mayFail (bus [.high] [.high]).cfg 0 ∧
    (bus [.high] [.high]).sclIn = ([] : List (Level × Level)).map Prod.fst ++ .high :: [] ∧
    (bus [.high] [.high]).sdaIn = ([] : List (Level × Level)).map Prod.snd ++ .high :: [] :=
  ⟨rfl, by simp [allFail], may_fail_small (by decide), rfl, rfl⟩

-- V5.6: stretched for two polls
theorem test_witness_SendByteCompletes :
    (bus [.low, .low, .high] [.low]).busy = false ∧ mayFail (bus [.low, .low, .high] [.low]).cfg 2 ∧
    (bus [.low, .low, .high] [.low]).sclIn = List.replicate 2 .low ++ .high :: [] ∧
    (bus [.low, .low, .high] [.low]).sdaIn = .low :: [] :=
  ⟨rfl, may_fail_small (by decide), rfl, rfl⟩

-- V5.7's script presents 0xAB
theorem test_witness_ReceiveByteCompletes :
    (bus [] [.high, .low, .high, .low, .high, .low, .high, .high]).busy = false ∧
    (bus [] [.high, .low, .high, .low, .high, .low, .high, .high]).sdaIn
      = byteLevels 0xAB ++ [] := by decide

theorem test_witness_ZeroLengthIsANoOp : (bus [] []).busy = false := rfl

-- one per clause; the last byte (IDX = 1 of 2) and the one before it (IDX = 0)
theorem test_witness_WriteSequence :
    (during (.write 0x50 2) (.start .s7) (bus [] [])).busy = true ∧
    (during (.write 0x50 2) (.start .s7) (bus [] [])).upc = .start .s7 ∧
    (∀ a, (during (.write 0x50 2) (.send .address 0xA0 (.a5 a)) (bus [] [])).upc
      = .send .address 0xA0 (.a5 a)) ∧
    (∀ a, (during (.write 0x50 2) (.send .data 0x10 (.a5 a)) (bus [] [])).upc
      = .send .data 0x10 (.a5 a)) ∧
    0 < (bus [] []).cfg.bufCap ∧
    ((bus [] []).idx.toNat + 1 < (2 : Byte).toNat ∧ (bus [] []).idx.toNat + 1 < small.bufCap) ∧
    (2 : Byte).toNat ≤ ({ bus [] [] with idx := 1 } : State).idx.toNat + 1 :=
  ⟨rfl, rfl, fun _ => rfl, fun _ => rfl, by decide, by decide, by decide⟩

-- V6.3: one byte to an acknowledging slave
theorem test_witness_WriteCompletes :
    (bus [.high, .high, .high, .high] [.high, .low, .low, .high]).busy = false ∧ (1 : Byte) ≠ 0 ∧
    (1 : Byte).toNat ≤ (bus [.high, .high, .high, .high] [.high, .low, .low, .high]).cfg.bufCap ∧
    mayFail (bus [.high, .high, .high, .high] [.high, .low, .low, .high]).cfg 0 ∧
    (bus [.high, .high, .high, .high] [.high, .low, .low, .high]).sclIn
      = List.replicate ((1 : Byte).toNat + 3) .high ++ [] ∧
    (bus [.high, .high, .high, .high] [.high, .low, .low, .high]).sdaIn
      = .high :: (List.replicate ((1 : Byte).toNat + 1) .low ++ .high :: []) :=
  ⟨rfl, by decide, by decide, may_fail_small (by decide), rfl, rfl⟩

-- V6.2
theorem test_witness_WriteAddressNak :
    (bus [.high, .high, .high] [.high, .high, .high]).busy = false ∧ (2 : Byte) ≠ 0 ∧
    (2 : Byte).toNat ≤ (bus [.high, .high, .high] [.high, .high, .high]).cfg.bufCap ∧
    mayFail (bus [.high, .high, .high] [.high, .high, .high]).cfg 0 ∧
    (bus [.high, .high, .high] [.high, .high, .high]).sclIn = .high :: .high :: .high :: [] ∧
    (bus [.high, .high, .high] [.high, .high, .high]).sdaIn = .high :: .high :: .high :: [] :=
  ⟨rfl, by decide, by decide, may_fail_small (by decide), rfl, rfl⟩

-- V6.6: the last of two bytes
theorem test_witness_WriteDataNak :
    (bus [.high, .high, .high, .high, .high] [.high, .low, .low, .high, .high]).busy = false ∧
    (1 : Byte).toNat < (2 : Byte).toNat ∧
    (2 : Byte).toNat
      ≤ (bus [.high, .high, .high, .high, .high] [.high, .low, .low, .high, .high]).cfg.bufCap ∧
    mayFail (bus [.high, .high, .high, .high, .high] [.high, .low, .low, .high, .high]).cfg 0 ∧
    (bus [.high, .high, .high, .high, .high] [.high, .low, .low, .high, .high]).sclIn
      = List.replicate ((1 : Byte).toNat + 4) .high ++ [] ∧
    (bus [.high, .high, .high, .high, .high] [.high, .low, .low, .high, .high]).sdaIn
      = .high :: (List.replicate ((1 : Byte).toNat + 1) .low ++ .high :: .high :: []) :=
  ⟨rfl, by decide, by decide, may_fail_small (by decide), rfl, rfl⟩

theorem test_witness_ReadSequence :
    (during (.read 0x50 2 true) (.start .s7) (bus [] [])).busy = true ∧
    (during (.read 0x50 2 true) (.start .s7) (bus [] [])).upc = .start .s7 ∧
    (∀ a, (during (.read 0x50 2 true) (.send .address 0xA1 (.a5 a)) (bus [] [])).upc
      = .send .address 0xA1 (.a5 a)) ∧
    (∀ a, (during (.read 0x50 2 true) (.recv a .k7) (bus [] [])).upc = .recv a .k7) ∧
    ((bus [] []).idx.toNat < small.bufCap ∧ (bus [] []).idx.toNat + 1 < (2 : Byte).toNat) ∧
    (({ bus [] [] with idx := 1 } : State).idx.toNat < small.bufCap ∧
      (2 : Byte).toNat ≤ ({ bus [] [] with idx := 1 } : State).idx.toNat + 1) :=
  ⟨rfl, rfl, fun _ => rfl, fun _ => rfl, by decide, by decide⟩

/-- V6.8: one byte, 0x7E, from an acknowledging slave, with and without NOSTOP. -/
theorem test_witness_ReadCompletes (nostop : Bool) :
    (bus (.high :: .high :: (if nostop then [] else [.high]))
      (.high :: .low :: (byteLevels 0x7E ++ (if nostop then [] else [.high])))).busy = false ∧
    ([0x7E] : List Byte) ≠ [] ∧ ([0x7E] : List Byte).length ≤ 255 ∧
    ([0x7E] : List Byte).length ≤ small.bufCap ∧ mayFail small 0 ∧
    (bus (.high :: .high :: (if nostop then [] else [.high]))
      (.high :: .low :: (byteLevels 0x7E ++ (if nostop then [] else [.high])))).sclIn
      = .high :: .high :: (if nostop then [] else .high :: []) ∧
    (bus (.high :: .high :: (if nostop then [] else [.high]))
      (.high :: .low :: (byteLevels 0x7E ++ (if nostop then [] else [.high])))).sdaIn
      = .high :: .low :: (([0x7E] : List Byte).flatMap byteLevels
          ++ (if nostop then [] else .high :: [])) :=
  ⟨rfl, by decide, by decide, by decide, may_fail_small (by decide), rfl, rfl⟩

-- V6.12
theorem test_witness_ReadAddressNak :
    (bus [.high, .high, .high] [.high, .high, .high]).busy = false ∧ (2 : Byte) ≠ 0 ∧
    (2 : Byte).toNat ≤ small.bufCap ∧ mayFail small 0 ∧
    (bus [.high, .high, .high] [.high, .high, .high]).sclIn = .high :: .high :: .high :: [] ∧
    (bus [.high, .high, .high] [.high, .high, .high]).sdaIn = .high :: .high :: .high :: [] :=
  ⟨rfl, by decide, by decide, may_fail_small (by decide), rfl, rfl⟩

/-- V7.1: a block with no bound, START waiting on a data line held LOW; and A3 on a held clock. -/
theorem test_witness_UnboundedWaitGoesOn :
    ((during .start (.start .s3) { State.reset with sclIn := [.high], sdaIn := [.low] }).busy = true ∧
      State.reset.cfg.waitLimit = none ∧ bothReleased State.reset ∧
      callsStart .start ∧ allFail [(.high, .low)] ∧
      [Level.high] = [(Level.high, Level.low)].map Prod.fst ++ [] ∧
      [Level.low] = [(Level.high, Level.low)].map Prod.snd ++ []) ∧
    (callsStop (.write 0x50 2) .nakData ∧
      (during (.write 0x50 2) (.stop .nakData .p5) State.reset).upc = .stop .nakData .p5) ∧
    (callsSend (.sendByte 0) .operand ∧
      (during (.sendByte 0) (.send .operand 0 .a3) State.reset).upc = .send .operand 0 .a3 ∧
      ∀ q ∈ [(Level.low, Level.low)], q.1 = .low) :=
  ⟨⟨rfl, rfl, by decide, trivial, by simp [allFail], rfl, rfl⟩, ⟨trivial, rfl⟩,
    ⟨rfl, rfl, by simp⟩⟩

/-- V7.2: WAIT_LIMIT = some 3 and three failed polls. -/
theorem test_witness_NthFailedPollRaisesBusStuck :
    ((during .start (.start .s3) (bus [.high, .high, .high] [.low, .low, .low])).busy = true ∧
      [(Level.high, Level.low), (.high, .low), (.high, .low)] ≠ [] ∧
      small.waitLimit = some [(Level.high, Level.low), (.high, .low), (.high, .low)].length ∧
      (bus [] []).waitcnt = 0 ∧ bothReleased (bus [] []) ∧ callsStart .start ∧
      allFail [(.high, .low), (.high, .low), (.high, .low)] ∧
      (bus [.high, .high, .high] [.low, .low, .low]).sclIn
        = [(Level.high, Level.low), (.high, .low), (.high, .low)].map Prod.fst ++ [] ∧
      (bus [.high, .high, .high] [.low, .low, .low]).sdaIn
        = [(Level.high, Level.low), (.high, .low), (.high, .low)].map Prod.snd ++ []) ∧
    callsStop .stop .success ∧
    (callsSend (.write 0x50 2) .address ∧
      ∀ q ∈ [(Level.low, Level.high), (.low, .low), (.low, .low)], q.1 = .low) :=
  ⟨⟨rfl, by decide, rfl, rfl, by decide, trivial, by simp [allFail], rfl, rfl⟩, rfl,
    ⟨by simp [callsSend], by simp⟩⟩

/-- The invariant at place `u` of command `i`, from its parts, for a small block whose buffers have not
been written. -/
theorem inv_during {i : Instr} {u : Upc} {s : State} (hc : s.cfg = small) (he : s.err = .ok)
    (hm : s.mem = []) (hu : u ≠ .idle) (hd : decode (encode i) = .ok i) (hw : i.wf small = true)
    (hp : placeOf i u) (hl : loopOk i (during i u s)) (ho : ownedOk i (during i u s))
    (hb : bitLoopOk (during i u s)) (ht : waitOk (during i u s)) (hn : linesOk (during i u s)) :
    Inv (during i u s) := by
  refine ⟨?_, ?_, ?_, ?_, ?_, hb, ht, hn⟩
  · show s.cfg.problem = none
    rw [hc]
    decide
  · simp [during, hu]
  · show s.mem.wf
    rw [hm]
    exact List.Pairwise.nil
  · intro c h
    have h' : c ∈ s.mem := h
    simp [hm] at h'
  · intro _
    exact ⟨i, hd, by show i.wf s.cfg = true; rw [hc]; exact hw, he, hp, hl, ho⟩

-- START at S3, both lines released: it meets Inv with BUSY = 1
theorem inv_start_s3 (scl sda : List Level) :
    Inv (during .start (.start .s3) (bus scl sda)) :=
  inv_during rfl rfl rfl (by simp) (by decide) rfl ⟨_, rfl⟩ trivial trivial trivial rfl ⟨rfl, rfl⟩

-- a WRITE at the acknowledge of its only data byte
theorem inv_write_a5 : Inv (during (.write 0x50 1)
    (.send .data (readByte (bus [] []) 0x100) (.a5 true)) { bus [] [] with ack := true }) :=
  inv_during rfl rfl rfl (by simp) (by decide) rfl (.inr (.inr (.inl ⟨_, _, rfl⟩)))
    ⟨by decide, by decide, rfl, rfl⟩ trivial ⟨rfl, rfl⟩ trivial ⟨rfl, rfl⟩

-- a READ at the end of its only byte
theorem inv_read_k7 : Inv (during (.read 0x50 1 true) (.recv false .k7)
    { lines .drivenLow .released (bus [] []) with ack := true }) :=
  inv_during rfl rfl rfl (by simp) (by decide) rfl (.inr (.inr (.inl ⟨_, _, rfl⟩)))
    ⟨by decide, by decide, rfl, by decide, rfl⟩ trivial rfl trivial ⟨rfl, rfl⟩

theorem test_witness_InvAtReset : ∃ s, State.build small = .next s := ⟨_, rfl⟩

theorem test_witness_InvEveryStep :
    Inv (during .start (.start .s3) (bus [.high] [.low])) ∧
    ∃ t, step (during .start (.start .s3) (bus [.high] [.low])) = .next t :=
  ⟨inv_start_s3 _ _, _, rfl⟩

theorem test_witness_EveryStepAnswersNext : Inv (during (.write 0x50 1)
    (.send .data (readByte (bus [] []) 0x100) (.a5 true)) { bus [] [] with ack := true }) :=
  inv_write_a5

theorem test_witness_BusyExactlyWhenNotIdle :
    ((during .start (.start .s4) (bus [] [])).upc = .idle ↔
      (during .start (.start .s4) (bus [] [])).busy = false) ∧
    ∃ t, step (during .start (.start .s4) (bus [] [])) = .next t :=
  ⟨by decide, _, rfl⟩

-- the last failed poll of S3 under the bound
theorem test_witness_WaitsAndEndsReleaseTheBus :
    Inv (during .start (.start .s3) { bus [.high] [.low] with waitcnt := 2 }) ∧
    decode (encode .start) = .ok .start ∧
    view (fun t => t.busy)
      (exec .start (during .start (.start .s3) { bus [.high] [.low] with waitcnt := 2 }))
      = some false :=
  ⟨inv_during (s := { bus [.high] [.low] with waitcnt := 2 }) rfl rfl rfl (by simp) (by decide) rfl
    ⟨_, rfl⟩ trivial trivial trivial rfl ⟨rfl, rfl⟩, by decide, by decide⟩

-- one of each command, at a place where it can end or fail
theorem test_witness_ErrorsOfEachCommand :
    (Inv (during (.release .scl) .line (bus [] [])) ∧
      ∃ t, exec (.release .scl) (during (.release .scl) .line (bus [] [])) = .next t) ∧
    (Inv (during (.driveLow .sda) .line (bus [] [])) ∧
      ∃ t, exec (.driveLow .sda) (during (.driveLow .sda) .line (bus [] [])) = .next t) ∧
    (Inv (during (.readLine .scl) .line (bus [.low] [])) ∧
      ∃ t, exec (.readLine .scl) (during (.readLine .scl) .line (bus [.low] [])) = .next t) ∧
    (Inv (during (.receiveByte true) (.recv true .c0) (bus [] [])) ∧
      ∃ t, exec (.receiveByte true) (during (.receiveByte true) (.recv true .c0) (bus [] []))
        = .next t) ∧
    (Inv (during .start (.start .s3) (bus [.high] [.low])) ∧
      ∃ t, exec .start (during .start (.start .s3) (bus [.high] [.low])) = .next t) ∧
    (Inv (during .stop (.stop .success .p5) (bus [.high] [.low])) ∧
      ∃ t, exec .stop (during .stop (.stop .success .p5) (bus [.high] [.low])) = .next t) ∧
    (Inv (during (.sendByte 1) (.send .operand 1 .a3) (bus [.low] [])) ∧
      ∃ t, exec (.sendByte 1) (during (.sendByte 1) (.send .operand 1 .a3) (bus [.low] []))
        = .next t) ∧
    (Inv (during (.sendByte 1) (.send .operand 1 .a4) (bus [] [.high])) ∧
      (sample .sda (during (.sendByte 1) (.send .operand 1 .a4) (bus [] [.high]))).1 = .high ∧
      ∃ t, exec (.sendByte 1) (during (.sendByte 1) (.send .operand 1 .a4) (bus [] [.high]))
        = .next t) ∧
    (Inv (during (.write 0x50 1) (.stop .nakAddress .p5) (bus [.high] [.high])) ∧
      view (fun t => t.err) (exec (.write 0x50 1)
        (during (.write 0x50 1) (.stop .nakAddress .p5) (bus [.high] [.high])))
        = some .noAckAddress) ∧
    (Inv (during (.read 0x50 1 true) (.recv false .k7)
        { lines .drivenLow .released (bus [] []) with ack := true }) ∧
      ∃ t, exec (.read 0x50 1 true) (during (.read 0x50 1 true) (.recv false .k7)
        { lines .drivenLow .released (bus [] []) with ack := true }) = .next t) :=
  ⟨⟨inv_during rfl rfl rfl (by simp) (by decide) rfl rfl trivial trivial trivial trivial trivial,
      _, rfl⟩,
    ⟨inv_during rfl rfl rfl (by simp) (by decide) rfl rfl trivial trivial trivial trivial trivial,
      _, rfl⟩,
    ⟨inv_during rfl rfl rfl (by simp) (by decide) rfl rfl trivial trivial trivial trivial trivial,
      _, rfl⟩,
    ⟨inv_during rfl rfl rfl (by simp) (by decide) rfl ⟨_, rfl⟩ trivial trivial trivial trivial
      trivial, _, rfl⟩,
    ⟨inv_start_s3 _ _, _, rfl⟩,
    ⟨inv_during rfl rfl rfl (by simp) (by decide) rfl ⟨_, rfl⟩ trivial trivial trivial rfl
      ⟨rfl, rfl⟩, _, rfl⟩,
    ⟨inv_during rfl rfl rfl (by simp) (by decide) rfl ⟨_, rfl⟩ trivial trivial rfl rfl
      ⟨rfl, rfl⟩, _, rfl⟩,
    ⟨inv_during rfl rfl rfl (by simp) (by decide) rfl ⟨_, rfl⟩ trivial trivial rfl trivial
      ⟨rfl, rfl⟩, rfl, _, rfl⟩,
    ⟨inv_during rfl rfl rfl (by simp) (by decide) rfl (.inr (.inr (.inr ⟨_, _, rfl⟩)))
      ⟨by decide, rfl, rfl⟩ trivial trivial rfl ⟨rfl, rfl⟩, by decide⟩,
    ⟨inv_read_k7, _, rfl⟩⟩

theorem test_witness_IdleKeepsResults :
    (hosted (.write 0x10F 5) (bus [] [])).busy = false ∧
    (∃ t, step (hosted (.write 0x10F 5) (bus [] [])) = .next t) ∧
    (∀ w rest, (hosted (.write 0x10F 5) (bus [] [])).host ≠ .write 0 w :: rest) ∧
    ∀ rest, (hosted (.write 0x10F 5) (bus [] [])).host ≠ .reset :: rest :=
  ⟨rfl, ⟨_, rfl⟩, fun w rest h => by simp [hosted] at h, fun rest h => by simp [hosted] at h⟩

theorem test_witness_LineDriverFrame :
    (∃ t, exec (.release .sda) (during (.release .sda) .line (bus [] [])) = .next t) ∧
    (∃ t, exec (.driveLow .scl) (during (.driveLow .scl) .line (bus [] [])) = .next t) ∧
    (∃ t, exec (.readLine .scl) (bus [.high] []) = .next t) := ⟨⟨_, rfl⟩, ⟨_, rfl⟩, ⟨_, rfl⟩⟩

theorem test_witness_ConditionFrame :
    (∃ t, exec .start (during .start (.start .s4) (bus [] [])) = .next t) ∧
    (∃ t, exec .stop (bus [] []) = .next t) := ⟨⟨_, rfl⟩, ⟨_, rfl⟩⟩

theorem test_witness_TransceiverFrame :
    (∃ t, exec (.sendByte 1) (during (.sendByte 1) (.send .operand 1 .b1) (bus [] [])) = .next t) ∧
    (∃ t, exec (.receiveByte true) (during (.receiveByte true) (.recv true .k7) (bus [] []))
      = .next t) := ⟨⟨_, rfl⟩, ⟨_, rfl⟩⟩

theorem test_witness_WriteFrame :
    (∃ t, exec (.write 0x50 1) (bus [] []) = .next t) ∧
    (∃ t, exec (.write 0x50 1)
      (during (.write 0x50 1) (.send .data 7 (.a5 true)) (bus [] [])) = .next t) :=
  ⟨⟨_, rfl⟩, ⟨_, rfl⟩⟩

-- the store at K7, and a micro-op that stores nothing
theorem test_witness_ReadFrame :
    (∃ t, exec (.read 0x50 1 true)
      (during (.read 0x50 1 true) (.recv false .k7) (bus [] [])) = .next t) ∧
    (∃ t, exec (.read 0x50 1 true)
      (during (.read 0x50 1 true) (.recv false .k6) (bus [] [])) = .next t) ∧
    ∀ k, (during (.read 0x50 1 true) (.recv false .k6) (bus [] [])).upc ≠ .recv k .k7 :=
  ⟨⟨_, rfl⟩, ⟨_, rfl⟩, fun k h => by simp [during] at h⟩

-- one step that changes each of LVL, ACK and DATA
theorem test_witness_WritersOfTheFlags :
    view (fun t => t.lvl) (step (during (.readLine .scl) .line (bus [.high] []))) = some true ∧
    view (fun t => t.ack)
      (step (during (.sendByte 1) (.send .operand 1 .a4) (bus [] [.low]))) = some true ∧
    view (fun t => t.data)
      (step { during (.receiveByte true) (.recv true .k7) (bus [] []) with acc := 5 }) = some 5 ∧
    (∀ rest, (bus [] []).host ≠ .reset :: rest) ∧
    view (fun t => readByte t 0x203) (step { during (.read 0x50 4 true) (.recv false .k7) (bus [] [])
      with idx := 3, acc := 5, mem := [(0x203, 4)] }) = some 5 ∧ small.bufCap ≤ 255 :=
  ⟨by decide, by decide, by decide, (fun rest h => by cases h), by decide, by decide⟩

-- V5.6's script with the clock held low
theorem test_witness_WireShowsSentByte :
    (lines .drivenLow .released (bus [.low, .low, .high] [.low])).busy = false ∧
    (lines .drivenLow .released (bus [.low, .low, .high] [.low])).outScl = .drivenLow ∧
    mayFail (lines .drivenLow .released (bus [.low, .low, .high] [.low])).cfg 2 ∧
    (lines .drivenLow .released (bus [.low, .low, .high] [.low])).sclIn
      = List.replicate 2 .low ++ .high :: [] ∧
    (lines .drivenLow .released (bus [.low, .low, .high] [.low])).sdaIn = .low :: [] :=
  ⟨rfl, rfl, may_fail_small (by decide), rfl, rfl⟩

-- V5.7's script with the clock held low
theorem test_witness_WireShowsReceivedByte :
    (lines .drivenLow .released (bus [] (byteLevels 0xAB))).busy = false ∧
    (lines .drivenLow .released (bus [] (byteLevels 0xAB))).outScl = .drivenLow ∧
    (lines .drivenLow .released (bus [] (byteLevels 0xAB))).sdaIn = byteLevels 0xAB ++ [] := by decide

theorem test_witness_WireShowsWholeWrite :
    (bus [.high, .high, .high, .high] [.high, .low, .low, .high]).busy = false ∧
    bothReleased (bus [.high, .high, .high, .high] [.high, .low, .low, .high]) ∧ (1 : Byte) ≠ 0 ∧
    (1 : Byte).toNat ≤ small.bufCap ∧ mayFail small 0 ∧
    (bus [.high, .high, .high, .high] [.high, .low, .low, .high]).sclIn
      = List.replicate ((1 : Byte).toNat + 3) .high ++ [] ∧
    (bus [.high, .high, .high, .high] [.high, .low, .low, .high]).sdaIn
      = .high :: (List.replicate ((1 : Byte).toNat + 1) .low ++ .high :: []) :=
  ⟨rfl, by decide, by decide, by decide, may_fail_small (by decide), rfl, rfl⟩

-- START and STOP after one failed poll; SEND_BYTE; RECEIVE_BYTE
theorem test_witness_LeastDurations :
    ((bus [.low, .high] [.high, .high]).busy = false ∧ allFail [(.low, .high)] ∧
      mayFail small [(Level.low, Level.high)].length ∧
      (bus [.low, .high] [.high, .high]).sclIn
        = [(Level.low, Level.high)].map Prod.fst ++ .high :: [] ∧
      (bus [.low, .high] [.high, .high]).sdaIn
        = [(Level.low, Level.high)].map Prod.snd ++ .high :: []) ∧
    ((bus [.high] [.low]).busy = false ∧ mayFail small 0 ∧
      (bus [.high] [.low]).sclIn = List.replicate 0 .low ++ .high :: [] ∧
      (bus [.high] [.low]).sdaIn = .low :: []) ∧
    (bus [] (byteLevels 0xAB)).busy = false ∧
      (bus [] (byteLevels 0xAB)).sdaIn = byteLevels 0xAB ++ [] :=
  ⟨⟨rfl, by simp [allFail], may_fail_small (by decide), rfl, rfl⟩,
    ⟨rfl, may_fail_small (by decide), rfl, rfl⟩, rfl, rfl⟩

-- an idle state of a small block, any number of steps
theorem test_witness_WorkingRegistersNeverShow :
    Inv (hosted (.write 0 0x40000000) (bus [] [])) ∧ (bus [] []).busy = false ∧
    ∃ t, Host.Core.run Sys2Proof.core 1 (hosted (.write 0 0x40000000) (bus [] [])) = .next t :=
  ⟨⟨by decide, by decide, List.Pairwise.nil, (fun c h => by cases h), (fun h => by cases h), trivial,
    trivial, trivial⟩, rfl, _, rfl⟩

-- a request turned away by BUF_CAP = 2 leaves NREAD = 2 of the READ before it, so that one step ends it;
-- the first byte, the last, and the call past the end
theorem test_witness_FacadeReadsInReceiptOrder :
    Facade.wf { small with bufCap := 2 } ⟨List.replicate 8 7, 0, 0⟩ ∧
    (∃ u, request 0x50 5 true 0 ⟨List.replicate 8 7, 0, 0⟩
        { bus [] [] with
          cfg := { small with bufCap := 2 }, nread := 2, mem := [(0x200, 1), (0x201, 2)] }
      = .next (some ⟨[1, 2, 7, 7, 7, 7, 7, 7], 2, 0⟩, u) ∧
      u.nread.toNat ≤ ({ small with bufCap := 2 } : Params).facadeCap) ∧
    (0 < 2 ∧ 1 < 2) ∧
    (⟨[1, 2, 7, 7, 7, 7, 7, 7], 2, 2⟩ : Facade).length
      ≤ (⟨[1, 2, 7, 7, 7, 7, 7, 7], 2, 2⟩ : Facade).cursor :=
  ⟨by decide, ⟨_, rfl, by decide⟩, by decide, by decide⟩

end Sys2Proof.Tests
end

section
/-! SUPPORT. O18: what one step does to the pair of drive states. A micro-op changes it as its own
events say (`perform_drives`); every running command's step takes exactly the micro-op at UPC and its
bookkeeping touches no line (`runOf_drives`); a host action other than reset touches no line. -/

namespace Sys2Proof.Machine

open Sys2Proof.Claims

/-- The two drive states, OUT[SCL] and OUT[SDA] (R20). -/
def State.drives (s : State) : Drive × Drive := (s.outScl, s.outSda)

/-! ### The micro-op and its events -/

/-- A micro-op changes OUT exactly as the events it leaves say (R90, R91, R92, R95). -/
theorem perform_drives (m : MicroOp) (s : State) :
    (perform m s).2.drives = (m.events s).foldl driveBy s.drives := by
  cases m with
  | release l => cases l <;> rfl
  | driveLow l => cases l <;> rfl
  | sample l => simp [State.drives, MicroOp.events, driveBy]
  | hold => rfl
  | wait c => cases c <;> simp [State.drives, MicroOp.events, driveBy]

/-- What a sample reads is no matter of the host's script. -/
theorem sample_host_update (l : Line) (s : State) (rest : List HostAction) :
    sample l { s with host := rest }
      = ((sample l s).1, { (sample l s).2 with host := rest }) := by
  have hout : ({ s with host := rest } : State).out l = s.out l := by cases l <;> rfl
  have hans : ({ s with host := rest } : State).answers l = s.answers l := by cases l <;> rfl
  cases ho : s.out l with
  | drivenLow => rw [sample_driven (hout.trans ho), sample_driven ho]
  | released =>
    cases ha : s.answers l with
    | nil => rw [sample_free (hout.trans ho) (hans.trans ha), sample_free ho ha]
    | cons v vs =>
      rw [sample_script (hout.trans ho) (hans.trans ha), sample_script ho ha]
      cases l <;> rfl

/-- The events of a micro-op are no matter of the host's script. -/
theorem MicroOp.events_host_update (m : MicroOp) (s : State) (rest : List HostAction) :
    m.events { s with host := rest } = m.events s := by
  cases m with
  | release l => rfl
  | driveLow l => rfl
  | sample l => simp only [MicroOp.events, sample_host_update]
  | hold => rfl
  | wait c => cases c <;> simp only [MicroOp.events, sample_host_update]

/-- The events of a command's step are no matter of the host's script. -/
theorem execEvents_host_update (i : Instr) (s : State) (rest : List HostAction) :
    execEvents i { s with host := rest } = execEvents i s := by
  have hm : microOpOf i { s with host := rest } = microOpOf i s := rfl
  unfold execEvents
  rw [hm]
  cases microOpOf i s with
  | none => rfl
  | some m => simp only [MicroOp.events_host_update]

/-! ### One micro-op of each operation: its bookkeeping touches no line -/

@[simp] theorem afterPoll_fst {π ρ : Type} (v : Level) (s : State) (again : π) (on : Flow π ρ) :
    (afterPoll v s again on).1 = s := by
  rcases afterPoll_cases v s again on with ⟨-, h⟩ | ⟨-, -, h⟩ | ⟨-, -, h⟩ <;> rw [h]

theorem nextSendBit_drives (s : State) : (nextSendBit s).1.drives = s.drives := by
  unfold nextSendBit
  split <;> rfl

theorem nextRecvBit_drives (a : Bool) (s : State) : (nextRecvBit a s).1.drives = s.drives := by
  unfold nextRecvBit
  split <;> rfl

theorem startStep_drives (p : StartPos) (s : State) :
    (startStep p s).1.drives = (perform p.microOp s).2.drives := by
  cases p with
  | s3 => simp [startStep]
  | s1 | s2 | s4 | s5 | s6 | s7 => rfl

theorem stopStep_drives (p : StopPos) (s : State) :
    (stopStep p s).1.drives = (perform p.microOp s).2.drives := by
  cases p with
  | p5 => simp [stopStep]
  | p0 | p1 | p2 | p3 | p4 => rfl

theorem sendStep_drives (b : Byte) (p : SendPos) (s : State) :
    (sendStep b p s).1.drives = (perform (p.microOp (bitAt b s.bitcnt)) s).2.drives := by
  cases p with
  | b5 => exact nextSendBit_drives _
  | a3 => simp [sendStep]
  | b1 | b2 | b3 | b4 | a1 | a2 | a4 | a5 ack => rfl

theorem recvStep_drives (a : Bool) (p : RecvPos) (s : State) :
    (recvStep a p s).1.drives = (perform p.microOp s).2.drives := by
  cases p with
  | c5 => exact nextRecvBit_drives _ _
  | c0 | c1 | c2 | c3 | c4 | k1 | k2 | k3 | k4 | k5 | k6 | k7 => rfl

/-! ### What a caller does with a result touches no line -/

/-- A caller's continuation that leaves OUT as it finds it. -/
def KeepsDrives {ρ : Type} (K : ρ → State → Host.Outcome State Fault Refusal) : Prop :=
  ∀ x s t, K x s = .next t → t.drives = s.drives

theorem endOk_keepsDrives {ρ : Type} : KeepsDrives (fun (_ : ρ) s => .next (endOk s)) := by
  intro _ s t h
  cases h
  rfl

theorem conclude_keepsDrives {ρ : Type} (after : Closing) :
    KeepsDrives (fun (_ : ρ) s => .next (conclude after s)) := by
  intro _ s t h
  cases h
  cases after <;> rfl

theorem enterSend_keepsDrives {ρ : Type} (site : SendSite) (b : Byte) :
    KeepsDrives (fun (_ : ρ) s => .next (enterSend site b s)) := by
  intro _ s t h
  cases h
  rfl

theorem enterDataByte_drives {k : Byte} {s t : State} (h : enterDataByte k s = .next t) :
    t.drives = s.drives := by
  unfold enterDataByte at h
  split at h
  · cases h
    rfl
  · cases h

theorem writeAfterAddress_keepsDrives : KeepsDrives writeAfterAddress := by
  intro ack s t h
  cases ack with
  | true => exact enterDataByte_drives h
  | false =>
    cases h
    rfl

theorem writeAfterData_keepsDrives (n : Byte) : KeepsDrives (writeAfterData n) := by
  intro ack s t h
  cases ack with
  | true =>
    simp only [writeAfterData, if_true] at h
    split at h
    · exact (enterDataByte_drives h).trans rfl
    · cases h
      rfl
  | false =>
    cases h
    rfl

theorem readAfterAddress_keepsDrives (c : Byte) : KeepsDrives (readAfterAddress c) := by
  intro ack s t h
  cases ack <;> cases h <;> rfl

theorem rxStore_drives {k : Nat} {v : Byte} {s t : State} (h : rxStore k v s = some t) :
    t.drives = s.drives := by
  unfold rxStore at h
  split at h
  · cases h
    rfl
  · cases h

theorem readAfterByte_keepsDrives (c : Byte) (nostop : Bool) :
    KeepsDrives (readAfterByte c nostop) := by
  intro v s t h
  unfold readAfterByte at h
  split at h
  · cases h
  · rename_i u hu
    refine Eq.trans ?_ (rxStore_drives hu)
    split at h
    · cases h
      rfl
    · split at h <;> cases h <;> rfl

/-! ### One step of a running command takes the micro-op at UPC -/

/-- From `s` to `t`, OUT changes as by the micro-op at UPC of command `i`. -/
def DrivesByMicroOp (i : Instr) (s t : State) : Prop :=
  ∃ m, microOpOf i s = some m ∧ t.drives = (perform m s).2.drives

/-- Whichever way a caller goes on, OUT stays as the operation's micro-op left it (R176, R179). -/
theorem resume_drives {π ρ : Type} {r : State × Flow π ρ} {place : π → Upc}
    {K : ρ → State → Host.Outcome State Fault Refusal} {t : State}
    (hK : KeepsDrives K) (h : resume r place K = .next t) : t.drives = r.1.drives := by
  rcases resume_cases h with ⟨p, -, rfl⟩ | ⟨x, -, hx⟩ | ⟨-, rfl⟩
  · rfl
  · exact hK x r.1 t hx
  · rfl

section Operations

variable {i : Instr} {s t : State}

theorem drivesByMicroOp_of_start {p : StartPos}
    {K : Unit → State → Host.Outcome State Fault Refusal}
    (hu : s.upc = .start p) (hK : KeepsDrives K)
    (h : resume (startStep p s) .start K = .next t) : DrivesByMicroOp i s t :=
  ⟨p.microOp, by simp [microOpOf, hu], (resume_drives hK h).trans (startStep_drives p s)⟩

theorem drivesByMicroOp_of_stop {after : Closing} {p : StopPos}
    (hu : s.upc = .stop after p) (h : stopThenConclude after p s = .next t) :
    DrivesByMicroOp i s t :=
  ⟨p.microOp, by simp [microOpOf, hu],
    (resume_drives (conclude_keepsDrives after) h).trans (stopStep_drives p s)⟩

theorem drivesByMicroOp_of_send {site : SendSite} {b : Byte} {p : SendPos}
    {K : Bool → State → Host.Outcome State Fault Refusal}
    (hu : s.upc = .send site b p) (hK : KeepsDrives K)
    (h : resume (sendStep b p s) (.send site b) K = .next t) : DrivesByMicroOp i s t :=
  ⟨p.microOp (bitAt b s.bitcnt), by simp [microOpOf, hu],
    (resume_drives hK h).trans (sendStep_drives b p s)⟩

theorem drivesByMicroOp_of_recv {a : Bool} {p : RecvPos}
    {K : Byte → State → Host.Outcome State Fault Refusal}
    (hu : s.upc = .recv a p) (hK : KeepsDrives K)
    (h : resume (recvStep a p s) (.recv a) K = .next t) : DrivesByMicroOp i s t :=
  ⟨p.microOp, by simp [microOpOf, hu], (resume_drives hK h).trans (recvStep_drives a p s)⟩

/-- A line-driver command has one micro-op, and recording its observation touches no line. -/
theorem drivesByMicroOp_of_line {m : MicroOp} {record : Level → State → State}
    (hm : lineMicroOp i = some m) (h : lineStep m record s = .next t)
    (hr : ∀ v u, (record v u).drives = u.drives) : DrivesByMicroOp i s t := by
  obtain ⟨hu, rfl⟩ := lineStep_cases h
  exact ⟨m, by simp [microOpOf, hu, hm], hr _ _⟩

theorem runStart_drives (h : runStart s = .next t) : DrivesByMicroOp i s t := by
  unfold runStart at h
  split at h
  · rename_i p hu
    exact drivesByMicroOp_of_start hu endOk_keepsDrives h
  · cases h

theorem runStop_drives (h : runStop s = .next t) : DrivesByMicroOp i s t := by
  unfold runStop at h
  split at h
  · rename_i p hu
    exact drivesByMicroOp_of_stop hu h
  · cases h

theorem runSendByte_drives (h : runSendByte s = .next t) : DrivesByMicroOp i s t := by
  unfold runSendByte at h
  split at h
  · rename_i b p hu
    exact drivesByMicroOp_of_send hu endOk_keepsDrives h
  · cases h

theorem runReceiveByte_drives (h : runReceiveByte s = .next t) : DrivesByMicroOp i s t := by
  unfold runReceiveByte at h
  split at h
  · rename_i a p hu
    exact drivesByMicroOp_of_recv hu endOk_keepsDrives h
  · cases h

theorem runWrite_drives {address : BitVec 7} {n : Byte} (h : runWrite address n s = .next t) :
    DrivesByMicroOp i s t := by
  unfold runWrite at h
  split at h
  · rename_i p hu
    exact drivesByMicroOp_of_start hu (enterSend_keepsDrives .address _) h
  · rename_i b p hu
    exact drivesByMicroOp_of_send hu writeAfterAddress_keepsDrives h
  · rename_i b p hu
    exact drivesByMicroOp_of_send hu (writeAfterData_keepsDrives n) h
  · rename_i after p hu
    exact drivesByMicroOp_of_stop hu h
  · cases h

theorem runRead_drives {address : BitVec 7} {c : Byte} {nostop : Bool}
    (h : runRead address c nostop s = .next t) : DrivesByMicroOp i s t := by
  unfold runRead at h
  split at h
  · rename_i p hu
    exact drivesByMicroOp_of_start hu (enterSend_keepsDrives .address _) h
  · rename_i b p hu
    exact drivesByMicroOp_of_send hu (readAfterAddress_keepsDrives c) h
  · rename_i a p hu
    exact drivesByMicroOp_of_recv hu (readAfterByte_keepsDrives c nostop) h
  · rename_i p hu
    exact drivesByMicroOp_of_stop hu h
  · rename_i p hu
    exact drivesByMicroOp_of_stop hu h
  · cases h

/-- A running command's step changes OUT as the micro-op at UPC does (R24, R25). -/
theorem runOf_drives (h : runOf i s = .next t) : DrivesByMicroOp i s t := by
  cases i with
  | release l => exact drivesByMicroOp_of_line (record := fun _ u => u) rfl h (fun _ _ => rfl)
  | driveLow l => exact drivesByMicroOp_of_line (record := fun _ u => u) rfl h (fun _ _ => rfl)
  | readLine l => exact drivesByMicroOp_of_line rfl h (fun _ _ => rfl)
  | start => exact runStart_drives h
  | stop => exact runStop_drives h
  | sendByte b => exact runSendByte_drives h
  | receiveByte a => exact runReceiveByte_drives h
  | write a n => exact runWrite_drives h
  | read a c ns => exact runRead_drives h

end Operations

/-! ### The steps of the machine -/

/-- A command's own part of its accept touches no line (R27). -/
theorem entryOf_drives (i : Instr) (s : State) : (entryOf i s).drives = s.drives := by
  cases i with
  | release | driveLow | readLine | start | stop | sendByte | receiveByte => rfl
  | write a n =>
    change (enterWrite n s).drives = s.drives
    unfold enterWrite
    split <;> rfl
  | read a c ns =>
    change (enterRead c s).drives = s.drives
    unfold enterRead
    split <;> rfl

/-- A step of a running command changes OUT as its events say. -/
theorem exec_busy_drives {i : Instr} {s t : State} (hb : s.busy = true) (h : exec i s = .next t) :
    t.drives = (execEvents i s).foldl driveBy s.drives := by
  rw [exec_busy hb] at h
  obtain ⟨m, hm, ht⟩ := runOf_drives h
  rw [ht, perform_drives]
  simp [execEvents, hb, hm]

/-- An accept, legal or not, touches no line (R27, R72). -/
theorem exec_idle_drives {i : Instr} {s t : State} (hb : s.busy = false) (h : exec i s = .next t) :
    t.drives = s.drives := by
  rcases exec_cases h with ⟨hb', -⟩ | ⟨-, -, rfl⟩ | ⟨-, -, rfl⟩
  · simp [hb] at hb'
  · exact entryOf_drives i _
  · rfl

/-- A host write touches no line, an issue of a command included (R27, R56). -/
theorem hostWrite_drives {n : Nat} {v : Word} {s t : State} (h : hostWrite n v s = .next t) :
    t.drives = s.drives := by
  rcases hostWrite_cases h with ⟨-, hi⟩ | ⟨-, -, -, rfl⟩ | ⟨-, -, rfl⟩
  · rcases issue_cases hi with ⟨-, rfl⟩ | ⟨hb, i, -, he⟩ | ⟨-, -, rfl⟩
    · rfl
    · exact exec_idle_drives hb he
    · rfl
  · rfl
  · rfl

/-- An idle engine leaves no event. -/
theorem stepEvents_idle {s : State} (hb : s.busy = false) : stepEvents s = [] := by
  unfold stepEvents
  cases decode s.cmdr <;> simp [execEvents, hb]

/-- A step of the host leaves no event. -/
theorem stepEvents_host {s : State} (hm : engineMoves s = false) : stepEvents s = [] := by
  simp [stepEvents, hm]

/-- The events of the engine's step are those of the command in CMDR. -/
theorem stepEvents_engine {s : State} {i : Instr} (hm : engineMoves s = true)
    (hd : decode s.cmdr = .ok i) : stepEvents s = execEvents i s := by
  simp [stepEvents, hm, hd]

/-- A step of the engine, the host's script being `rest` after it, changes OUT as the events say. -/
theorem engineStep_drives {s t : State} {rest : List HostAction} (hm : engineMoves s = true)
    (h : engineStep { s with host := rest } = .next t) :
    t.drives = (stepEvents s).foldl driveBy s.drives := by
  rcases engineStep_cases h with ⟨hb, rfl⟩ | ⟨hb, i, hd, he⟩
  · rw [stepEvents_idle (s := s) hb]
    rfl
  · rw [stepEvents_engine hm hd, exec_busy_drives hb he, execEvents_host_update]
    rfl

/-- Settles O18, by who moves: the engine's step is one micro-op, the host's touches no line. -/
theorem outFollowsTheTrace : Obligations.OutFollowsTheTrace := by
  intro s t h hreset
  change t.drives = (stepEvents s).foldl driveBy s.drives
  rcases step_cases h with ⟨hh, he⟩ | ⟨rest, hh, he⟩ | ⟨n, v, rest, hh, hw⟩ | ⟨n, rest, hh, rfl⟩ |
    ⟨rest, hh, -⟩
  · exact engineStep_drives (rest := s.host) (by simp [engineMoves, hh]) he
  · exact engineStep_drives (by simp [engineMoves, hh]) he
  · rw [stepEvents_host (by simp [engineMoves, hh])]
    exact (hostWrite_drives hw).trans rfl
  · rw [stepEvents_host (by simp [engineMoves, hh])]
    rfl
  · exact absurd hh (hreset rest)

end Sys2Proof.Machine
end

section
/-! SUPPORT. A word the decoder reads as a command is that command's own word (R70 to R73), and a command
within its length is legal as R72 words it. -/

namespace Sys2Proof

/-- The unused fields are checked and nothing else (R72 (c)). -/
theorem requireZero_eq_ok {f n a : Bool} {w : Word} {i j : Instr}
    (h : requireZero f n a w i = .ok j) :
    j = i ∧ (f = true → fField w = false) ∧ (n = true → nField w = 0) ∧
      (a = true → addrField w = 0) := by
  unfold requireZero at h
  split_ifs at h with hf hn ha
  cases h
  refine ⟨rfl, ?_, ?_, ?_⟩
  · simpa using hf
  · simpa using hn
  · simpa using ha

/-- The opcode map reads each row's word back: its used fields are the operands, its unused ones 0 (R73,
R74). -/
theorem encode_of_decodeOp {w : Word} {i : Instr} (h : decodeOp w = .ok i) :
    encode i = assemble (opField w) (fField w) (nField w) (addrField w) := by
  have hop : opField w = BitVec.ofNat 4 (opField w).toNat := by simp
  rw [hop]
  unfold decodeOp at h
  split at h
  case h_10 => cases h
  all_goals
    rename_i hrow
    obtain ⟨rfl, hf, hn, ha⟩ := requireZero_eq_ok h
    simp_all [encode]

/-- A word that decodes to `i` is `i`'s own word (R72, R73). -/
theorem encode_of_decode {w : Word} {i : Instr} (h : decode w = .ok i) : encode i = w := by
  unfold decode at h
  split_ifs at h with h1 h0
  rw [encode_of_decodeOp h]
  exact assemble_fields (not_not.1 h1) (by simpa using h0)

namespace Claims

/-- The word of a command within BUF_CAP is legal (R72). -/
theorem legalWord_encode {p : Params} {i : Instr} (h : i.wf p = true) : legalWord p (encode i) := by
  cases i with
  | write | read =>
    simpa [legalWord, encode, opLegal, fUnused, nUnused, addrUnused] using of_decide_eq_true h
  | release | driveLow | readLine | start | stop | sendByte | receiveByte =>
    simp [legalWord, encode, opLegal, fUnused, nUnused, addrUnused]

end Claims

end Sys2Proof
end

section
/-! SUPPORT. One step of a running command, said once for every command: which operation is at UPC, what
its caller does with the operation's result, and what the micro-op and the caller each leave alone. -/

namespace Sys2Proof.Machine

open Sys2Proof.Claims

/-! ### The operation at UPC and its caller's part -/

/-- Command `i` has a meaning at place `u`: the operation `u` stands in is one it calls (R24). -/
inductive HasPlace (i : Instr) : Upc → Prop where
  | line {m : MicroOp} (h : lineMicroOp i = some m) : HasPlace i .line
  | start {p : StartPos} (h : callsStart i) : HasPlace i (.start p)
  | stop {after : Closing} {p : StopPos} (h : callsStop i after) : HasPlace i (.stop after p)
  | send {site : SendSite} {b : Byte} {p : SendPos} (h : callsSend i site) :
    HasPlace i (.send site b p)
  | recv {a : Bool} {p : RecvPos} (h : callsRecv i) : HasPlace i (.recv a p)

/-- What a line-driver command records of its observation (R94). -/
def lineRecord (i : Instr) (v : Level) (s : State) : State :=
  match i with
  | .readLine _ => s.setLvl v
  | _ => s

/-- What follows the `start()` of command `i` (R106, R141, R145). -/
def afterStart (i : Instr) (_ : Unit) (s : State) : Host.Outcome State Fault Refusal :=
  match i with
  | .write address _ => .next (enterSend .address (addrByte address false) s)
  | .read address _ _ => .next (enterSend .address (addrByte address true) s)
  | _ => .next (endOk s)

/-- What follows the `send_byte` of command `i` at `site` (R121, R141, R145). -/
def afterSend (i : Instr) (site : SendSite) (ack : Bool) (s : State) :
    Host.Outcome State Fault Refusal :=
  match i, site with
  | .write _ _, .address => writeAfterAddress ack s
  | .write _ n, .data => writeAfterData n ack s
  | .read _ c _, .address => readAfterAddress c ack s
  | _, _ => .next (endOk s)

/-- What follows the `receive_byte` of command `i` (R127, R145). -/
def afterRecv (i : Instr) (v : Byte) (s : State) : Host.Outcome State Fault Refusal :=
  match i with
  | .read _ c nostop => readAfterByte c nostop v s
  | _ => .next (endOk s)

section RunOf

variable {i : Instr} {s t : State}

theorem runOf_line {m : MicroOp} (h : lineMicroOp i = some m) :
    runOf i s = lineStep m (lineRecord i) s := by
  cases i with
  | release l | driveLow l | readLine l => cases h; rfl
  | start | stop | sendByte | receiveByte | write | read => cases h

theorem runOf_start {p : StartPos} (h : callsStart i) (hu : s.upc = .start p) :
    runOf i s = resume (startStep p s) .start (afterStart i) := by
  cases i with
  | start => simp only [runOf, runStart, hu]; rfl
  | write address n => simp only [runOf, runWrite, hu]; rfl
  | read address c nostop => simp only [runOf, runRead, hu]; rfl
  | release | driveLow | readLine | stop | sendByte | receiveByte => exact h.elim

theorem runOf_stop {after : Closing} {p : StopPos} (h : callsStop i after)
    (hu : s.upc = .stop after p) : runOf i s = stopThenConclude after p s := by
  cases i with
  | stop => cases h; simp only [runOf, runStop, hu]
  | write address n => simp only [runOf, runWrite, hu]
  | read address c nostop => exact runRead_stop hu h
  | release | driveLow | readLine | start | sendByte | receiveByte => exact h.elim

theorem runOf_send {site : SendSite} {b : Byte} {p : SendPos} (h : callsSend i site)
    (hu : s.upc = .send site b p) :
    runOf i s = resume (sendStep b p s) (.send site b) (afterSend i site) := by
  cases i with
  | sendByte c => cases h; simp only [runOf, runSendByte, hu]; rfl
  | write address n =>
    cases site with
    | operand => exact absurd rfl h
    | address | data => simp only [runOf, runWrite, hu]; rfl
  | read address c nostop => cases h; simp only [runOf, runRead, hu]; rfl
  | release | driveLow | readLine | start | stop | receiveByte => exact h.elim

theorem runOf_recv {a : Bool} {p : RecvPos} (h : callsRecv i) (hu : s.upc = .recv a p) :
    runOf i s = resume (recvStep a p s) (.recv a) (afterRecv i) := by
  cases i with
  | receiveByte c => simp only [runOf, runReceiveByte, hu]; rfl
  | read address c nostop => simp only [runOf, runRead, hu]; rfl
  | release | driveLow | readLine | start | stop | sendByte | write => exact h.elim

/-- A running command answers a next state only at a place of its own (R24). -/
theorem runOf_hasPlace (h : runOf i s = .next t) : HasPlace i s.upc := by
  cases i with
  | release l | driveLow l | readLine l =>
    rw [runOf_line rfl] at h
    exact (lineStep_cases h).1 ▸ .line rfl
  | start =>
    simp only [runOf, runStart] at h
    split at h <;> rename_i hu
    · exact hu ▸ .start trivial
    · cases h
  | stop =>
    simp only [runOf, runStop] at h
    split at h <;> rename_i hu
    · exact hu ▸ .stop rfl
    · cases h
  | sendByte b =>
    simp only [runOf, runSendByte] at h
    split at h <;> rename_i hu
    · exact hu ▸ .send rfl
    · cases h
  | receiveByte a =>
    simp only [runOf, runReceiveByte] at h
    split at h <;> rename_i hu
    · exact hu ▸ .recv trivial
    · cases h
  | write address n =>
    simp only [runOf, runWrite] at h
    split at h <;> rename_i hu
    · exact hu ▸ .start trivial
    · exact hu ▸ .send (by simp [callsSend])
    · exact hu ▸ .send (by simp [callsSend])
    · exact hu ▸ .stop trivial
    · cases h
  | read address c nostop =>
    simp only [runOf, runRead] at h
    split at h <;> rename_i hu
    · exact hu ▸ .start trivial
    · exact hu ▸ .send rfl
    · exact hu ▸ .recv trivial
    · exact hu ▸ .stop (by simp [callsStop])
    · exact hu ▸ .stop (by simp [callsStop])
    · cases h

end RunOf

/-! ### What a micro-op leaves alone -/

/-- What no micro-op of an operation touches: all but OUT, the working registers, ACK, DATA and the
environment's part. -/
structure Kept (s t : State) : Prop where
  cfg : t.cfg = s.cfg
  cmdr : t.cmdr = s.cmdr
  idx : t.idx = s.idx
  nwritten : t.nwritten = s.nwritten
  nread : t.nread = s.nread
  busy : t.busy = s.busy
  lvl : t.lvl = s.lvl
  err : t.err = s.err
  upc : t.upc = s.upc
  mem : t.mem = s.mem
  epoch : t.epoch = s.epoch

theorem perform_kept (m : MicroOp) (s : State) : Kept s (perform m s).2 := by
  constructor <;> simp

theorem startStep_kept (p : StartPos) (s : State) : Kept s (startStep p s).1 := by
  cases p with
  | s3 => simpa [startStep] using perform_kept _ s
  | s2 => exact { perform_kept (.release .scl) s with }
  | s1 | s4 | s5 | s6 | s7 => exact perform_kept _ s

theorem stopStep_kept (p : StopPos) (s : State) : Kept s (stopStep p s).1 := by
  cases p with
  | p5 => simpa [stopStep] using perform_kept _ s
  | p4 => exact { perform_kept .hold s with }
  | p0 | p1 | p2 | p3 => exact perform_kept _ s

theorem sendStep_kept (b : Byte) (p : SendPos) (s : State) : Kept s (sendStep b p s).1 := by
  cases p with
  | b5 =>
    have h : Kept s (perform (.driveLow .scl) s).2 := perform_kept _ s
    simp only [sendStep, nextSendBit]
    split
    · exact h
    · exact { h with }
  | a2 => exact { perform_kept (.release .scl) s with }
  | a3 => simpa [sendStep] using perform_kept _ s
  | a4 => exact { perform_kept (.sample .sda) s with }
  | b1 | b2 | b3 | b4 | a1 | a5 ack => exact perform_kept _ s

theorem recvStep_kept (a : Bool) (p : RecvPos) (s : State) : Kept s (recvStep a p s).1 := by
  cases p with
  | c0 => exact { perform_kept (.release .sda) s with }
  | c3 => exact { perform_kept (.sample .sda) s with }
  | c5 =>
    have h : Kept s (perform .hold s).2 := perform_kept _ s
    simp only [recvStep, nextRecvBit]
    split
    · exact h
    · exact { h with }
  | k7 => exact { perform_kept (.release .sda) s with }
  | c1 | c2 | c4 | k1 | k2 | k3 | k4 | k5 | k6 => exact perform_kept _ s

/-! ### ACK and DATA have one writer each (R28, D33) -/

theorem startStep_ack (p : StartPos) (s : State) : (startStep p s).1.ack = s.ack := by
  cases p <;> simp [startStep, StartPos.microOp]

theorem startStep_data (p : StartPos) (s : State) : (startStep p s).1.data = s.data := by
  cases p <;> simp [startStep, StartPos.microOp]

theorem stopStep_ack (p : StopPos) (s : State) : (stopStep p s).1.ack = s.ack := by
  cases p <;> simp [stopStep, StopPos.microOp]

theorem stopStep_data (p : StopPos) (s : State) : (stopStep p s).1.data = s.data := by
  cases p <;> simp [stopStep, StopPos.microOp]

theorem nextSendBit_last {s : State} (h : s.bitcnt = 0) : nextSendBit s = (s, .go .a1) :=
  if_pos h

theorem nextSendBit_more {s : State} (h : s.bitcnt ≠ 0) :
    nextSendBit s = ({ s with bitcnt := s.bitcnt - 1 }, .go .b1) :=
  if_neg h

theorem nextRecvBit_last {s : State} (h : s.bitcnt = 0) (a : Bool) :
    nextRecvBit a s = (s, .go (if a then .k1 else .k2)) :=
  if_pos h

theorem nextRecvBit_more {s : State} (h : s.bitcnt ≠ 0) (a : Bool) :
    nextRecvBit a s = ({ s with bitcnt := s.bitcnt - 1 }, .go .c1) :=
  if_neg h

theorem nextSendBit_ack (s : State) : (nextSendBit s).1.ack = s.ack := by
  unfold nextSendBit
  split <;> rfl

theorem nextSendBit_data (s : State) : (nextSendBit s).1.data = s.data := by
  unfold nextSendBit
  split <;> rfl

theorem nextRecvBit_ack (a : Bool) (s : State) : (nextRecvBit a s).1.ack = s.ack := by
  unfold nextRecvBit
  split <;> rfl

theorem nextRecvBit_data (a : Bool) (s : State) : (nextRecvBit a s).1.data = s.data := by
  unfold nextRecvBit
  split <;> rfl

theorem sendStep_data (b : Byte) (p : SendPos) (s : State) : (sendStep b p s).1.data = s.data := by
  cases p <;> simp [sendStep, nextSendBit_data]

/-- A4 alone writes ACK (R120). -/
theorem sendStep_ack {b : Byte} {p : SendPos} {s : State} (hp : p ≠ .a4) :
    (sendStep b p s).1.ack = s.ack := by
  cases p with
  | a4 => exact absurd rfl hp
  | b1 | b2 | b3 | b4 | b5 | a1 | a2 | a3 | a5 => simp [sendStep, nextSendBit_ack]

theorem recvStep_ack (a : Bool) (p : RecvPos) (s : State) : (recvStep a p s).1.ack = s.ack := by
  cases p <;> simp [recvStep, nextRecvBit_ack]

/-- K7 alone writes DATA (R125). -/
theorem recvStep_data {a : Bool} {p : RecvPos} {s : State} (hp : p ≠ .k7) :
    (recvStep a p s).1.data = s.data := by
  cases p with
  | k7 => exact absurd rfl hp
  | c0 | c1 | c2 | c3 | c4 | c5 | k1 | k2 | k3 | k4 | k5 | k6 => simp [recvStep, nextRecvBit_data]

/-- K7 alone ends `receive_byte` (R125). -/
theorem recvStep_done {a : Bool} {p : RecvPos} {s : State} {v : Byte}
    (h : (recvStep a p s).2 = .done v) : p = .k7 := by
  cases p with
  | k7 => rfl
  | c5 =>
    simp only [recvStep, nextRecvBit] at h
    split at h <;> cases h
  | c0 | c1 | c2 | c3 | c4 | k1 | k2 | k3 | k4 | k5 | k6 => cases h

/-! ### What the caller's part leaves alone -/

/-- What no caller's part after a micro-op touches; it leaves the engine idle in both UPC and BUSY or in
neither (R24, R176). -/
structure Carried (s t : State) : Prop where
  cfg : t.cfg = s.cfg
  lvl : t.lvl = s.lvl
  ack : t.ack = s.ack
  data : t.data = s.data
  mem : t.mem = s.mem
  epoch : t.epoch = s.epoch
  idle : s.busy = true → (t.upc = .idle ↔ t.busy = false)

theorem carried_endOk (s : State) : Carried s (endOk s) :=
  ⟨rfl, rfl, rfl, rfl, rfl, rfl, fun _ => iff_of_true rfl rfl⟩

theorem carried_raise (e : ErrCode) (s : State) : Carried s (raise e s) :=
  ⟨rfl, rfl, rfl, rfl, rfl, rfl, fun _ => iff_of_true rfl rfl⟩

theorem carried_conclude (after : Closing) (s : State) : Carried s (conclude after s) := by
  cases after with
  | success => exact carried_endOk s
  | nakAddress | nakData => exact carried_raise _ s

theorem carried_goto {u : Upc} (hu : u ≠ .idle) (s : State) : Carried s (s.goto u) :=
  ⟨rfl, rfl, rfl, rfl, rfl, rfl, fun hb => iff_of_false hu (by simp [hb])⟩

theorem carried_enterSend (site : SendSite) (b : Byte) (s : State) :
    Carried s (enterSend site b s) :=
  ⟨rfl, rfl, rfl, rfl, rfl, rfl, fun hb => iff_of_false Upc.noConfusion (by simp [enterSend, hb])⟩

theorem carried_enterStop (after : Closing) (s : State) : Carried s (enterStop after s) :=
  carried_goto Upc.noConfusion s

/-- A data byte is sent from TXBUF, with IDX at it (R52, R63, R141). -/
theorem enterDataByte_cases {k : Byte} {s t : State} (h : enterDataByte k s = .next t) :
    t = enterSend .data (readByte s (txBase + k.toNat)) { s with idx := k } := by
  unfold enterDataByte txByte at h
  split at h
  · rename_i b hb
    split at hb
    · cases hb
      cases h
      rfl
    · cases hb
  · cases h

theorem writeAfterAddress_cases {ack : Bool} {s t : State}
    (h : writeAfterAddress ack s = .next t) :
    (ack = true ∧ t = enterSend .data (readByte s txBase) { s with idx := 0 }) ∨
      (ack = false ∧ t = enterStop .nakAddress s) := by
  cases ack with
  | true => exact .inl ⟨rfl, enterDataByte_cases h⟩
  | false => cases h; exact .inr ⟨rfl, rfl⟩

theorem writeAfterData_cases {n : Byte} {ack : Bool} {s t : State}
    (h : writeAfterData n ack s = .next t) :
    (ack = true ∧ moreAfter s.idx n = true ∧
        t = enterSend .data (readByte s (txBase + (s.idx + 1).toNat))
          { s with nwritten := s.idx + 1, idx := s.idx + 1 }) ∨
      (ack = true ∧ moreAfter s.idx n = false ∧
        t = enterStop .success { s with nwritten := s.idx + 1 }) ∨
      (ack = false ∧ t = enterStop .nakData s) := by
  cases ack with
  | true =>
    cases hm : moreAfter s.idx n <;> simp only [writeAfterData, hm, if_true, Bool.false_eq_true,
      if_false] at h
    · cases h; exact .inr (.inl ⟨rfl, rfl, rfl⟩)
    · exact .inl ⟨rfl, rfl, enterDataByte_cases h⟩
  | false => cases h; exact .inr (.inr ⟨rfl, rfl⟩)

theorem readAfterAddress_cases {c : Byte} {ack : Bool} {s t : State}
    (h : readAfterAddress c ack s = .next t) :
    (ack = true ∧ t = enterReadByte 0 c s) ∨ (ack = false ∧ t = enterStop .nakAddress s) := by
  cases ack with
  | true => cases h; exact .inl ⟨rfl, rfl⟩
  | false => cases h; exact .inr ⟨rfl, rfl⟩

/-- After a byte of a READ: it is stored at IDX and counted (R145). -/
def storedRead (v : Byte) (s : State) : State :=
  { writeByte (rxBase + s.idx.toNat) v s with nread := s.idx + 1 }

theorem readAfterByte_cases {c : Byte} {nostop : Bool} {v : Byte} {s t : State}
    (h : readAfterByte c nostop v s = .next t) :
    s.idx.toNat < s.cfg.bufCap ∧
      ((moreAfter s.idx c = true ∧ t = enterReadByte (s.idx + 1) c (storedRead v s)) ∨
        (moreAfter s.idx c = false ∧ nostop = true ∧ t = endOk (storedRead v s)) ∨
        (moreAfter s.idx c = false ∧ nostop = false ∧ t = enterStop .success (storedRead v s))) := by
  unfold readAfterByte at h
  split at h
  · cases h
  · rename_i u hu
    obtain ⟨hk, rfl⟩ := rxStore_eq_some hu
    refine ⟨hk, ?_⟩
    simp only [writeByte_idx] at h
    cases hm : moreAfter s.idx c <;> simp only [hm, if_true, Bool.false_eq_true, if_false] at h
    · cases nostop <;> cases h
      · exact .inr (.inr ⟨rfl, rfl, rfl⟩)
      · exact .inr (.inl ⟨rfl, rfl, rfl⟩)
    · cases h
      exact .inl ⟨rfl, rfl⟩


theorem afterStart_carried {i : Instr} {x : Unit} {s t : State} (h : afterStart i x s = .next t) :
    Carried s t := by
  cases i with
  | write | read => cases h; exact carried_enterSend _ _ s
  | release | driveLow | readLine | start | stop | sendByte | receiveByte =>
    cases h; exact carried_endOk s

theorem writeAfterAddress_carried {ack : Bool} {s t : State}
    (h : writeAfterAddress ack s = .next t) : Carried s t := by
  rcases writeAfterAddress_cases h with ⟨-, rfl⟩ | ⟨-, rfl⟩
  · exact { carried_enterSend .data _ { s with idx := 0 } with }
  · exact carried_enterStop _ s

theorem writeAfterData_carried {n : Byte} {ack : Bool} {s t : State}
    (h : writeAfterData n ack s = .next t) : Carried s t := by
  rcases writeAfterData_cases h with ⟨-, -, rfl⟩ | ⟨-, -, rfl⟩ | ⟨-, rfl⟩
  · exact { carried_enterSend .data _ { s with nwritten := s.idx + 1, idx := s.idx + 1 } with }
  · exact { carried_enterStop .success { s with nwritten := s.idx + 1 } with }
  · exact carried_enterStop _ s

theorem readAfterAddress_carried {c : Byte} {ack : Bool} {s t : State}
    (h : readAfterAddress c ack s = .next t) : Carried s t := by
  rcases readAfterAddress_cases h with ⟨-, rfl⟩ | ⟨-, rfl⟩
  · exact { carried_goto (Upc.noConfusion : Upc.recv _ .c0 ≠ .idle) { s with idx := 0 } with }
  · exact carried_enterStop _ s

theorem afterSend_carried {i : Instr} {site : SendSite} {ack : Bool} {s t : State}
    (h : afterSend i site ack s = .next t) : Carried s t := by
  unfold afterSend at h
  split at h
  · exact writeAfterAddress_carried h
  · exact writeAfterData_carried h
  · exact readAfterAddress_carried h
  · cases h; exact carried_endOk s

theorem readAfterByte_carried {c : Byte} {nostop : Bool} {v : Byte} {s t : State}
    (h : readAfterByte c nostop v s = .next t) : Carried (storedRead v s) t := by
  obtain ⟨-, ⟨-, rfl⟩ | ⟨-, -, rfl⟩ | ⟨-, -, rfl⟩⟩ := readAfterByte_cases h
  · exact { carried_goto (Upc.noConfusion : Upc.recv _ .c0 ≠ .idle)
      { storedRead v s with idx := s.idx + 1 } with }
  · exact carried_endOk _
  · exact carried_enterStop _ _

/-- Whichever way a caller goes on, it leaves alone what its own part does (R176, R179). -/
theorem resume_carried {π ρ : Type} {r : State × Flow π ρ} {place : π → Upc}
    {K : ρ → State → Host.Outcome State Fault Refusal} {t : State}
    (hplace : ∀ p, place p ≠ .idle) (hK : ∀ x, K x r.1 = .next t → Carried r.1 t)
    (h : resume r place K = .next t) : Carried r.1 t := by
  rcases resume_cases h with ⟨p, -, rfl⟩ | ⟨x, -, hx⟩ | ⟨-, rfl⟩
  · exact carried_goto (hplace p) r.1
  · exact hK x hx
  · exact carried_raise _ r.1

/-! ### What one step of a running command leaves alone -/

/-- The frame of one step of the running command `i`: who writes LVL, ACK, DATA and the buffers, the
parameters kept, and UPC IDLE exactly when BUSY = 0 (R24, R28, R32, R51, D33). -/
structure StepFrame (i : Instr) (s t : State) : Prop where
  cfg : t.cfg = s.cfg
  epoch : t.epoch = s.epoch
  idle : t.upc = .idle ↔ t.busy = false
  lvl : t.lvl ≠ s.lvl → s.upc = .line ∧ ∃ l, i = .readLine l
  ack : t.ack ≠ s.ack → ∃ site b, s.upc = .send site b .a4
  data : t.data ≠ s.data → ∃ a, s.upc = .recv a .k7
  mem : t.mem ≠ s.mem → (∃ a, s.upc = .recv a .k7) ∧ (∃ address c nostop, i = .read address c nostop) ∧
    ∃ v, t.mem = s.mem.write (rxBase + s.idx.toNat) v

section Frame

variable {i : Instr} {s r t : State}

/-- An operation that writes no buffer: its micro-op, then the caller's part. -/
theorem StepFrame.of_parts (hb : s.busy = true) (k : Kept s r) (c : Carried r t)
    (ack : r.ack ≠ s.ack → ∃ site b, s.upc = .send site b .a4)
    (data : r.data ≠ s.data → ∃ a, s.upc = .recv a .k7) : StepFrame i s t where
  cfg := c.cfg.trans k.cfg
  epoch := c.epoch.trans k.epoch
  idle := c.idle (k.busy.trans hb)
  lvl h := absurd (c.lvl.trans k.lvl) h
  ack h := ack (c.ack ▸ h)
  data h := data (c.data ▸ h)
  mem h := absurd (c.mem.trans k.mem) h

theorem stepFrame_line {m : MicroOp} (hm : lineMicroOp i = some m)
    (h : lineStep m (lineRecord i) s = .next t) : StepFrame i s t := by
  obtain ⟨hu, rfl⟩ := lineStep_cases h
  cases i with
  | release l | driveLow l =>
    constructor <;> simp [lineRecord]
  | readLine l =>
    constructor <;> simp [lineRecord, hu]
  | start | stop | sendByte | receiveByte | write | read => cases hm

theorem stepFrame_start {p : StartPos} (hb : s.busy = true)
    (h : resume (startStep p s) .start (afterStart i) = .next t) : StepFrame i s t :=
  .of_parts hb (startStep_kept p s)
    (resume_carried (fun _ => Upc.noConfusion) (fun _ => afterStart_carried) h)
    (fun h => absurd (startStep_ack p s) h) (fun h => absurd (startStep_data p s) h)

theorem stepFrame_stop {after : Closing} {p : StopPos} (hb : s.busy = true)
    (h : stopThenConclude after p s = .next t) : StepFrame i s t :=
  .of_parts hb (stopStep_kept p s)
    (resume_carried (fun _ => Upc.noConfusion)
      (fun _ h => by cases h; exact carried_conclude after _) h)
    (fun h => absurd (stopStep_ack p s) h) (fun h => absurd (stopStep_data p s) h)

theorem stepFrame_send {site : SendSite} {b : Byte} {p : SendPos} (hb : s.busy = true)
    (hu : s.upc = .send site b p)
    (h : resume (sendStep b p s) (.send site b) (afterSend i site) = .next t) :
    StepFrame i s t :=
  .of_parts hb (sendStep_kept b p s)
    (resume_carried (fun _ => Upc.noConfusion) (fun _ => afterSend_carried) h)
    (fun h => by
      have hp : p = .a4 := by_contra fun hp => h (sendStep_ack hp)
      exact ⟨site, b, hp ▸ hu⟩)
    (fun h => absurd (sendStep_data b p s) h)

/-- `receive_byte` in a READ ends by a store to RXBUF; otherwise it writes no buffer (R127, R145). -/
theorem stepFrame_recv {a : Bool} {p : RecvPos} (hb : s.busy = true) (hu : s.upc = .recv a p)
    (h : resume (recvStep a p s) (.recv a) (afterRecv i) = .next t) : StepFrame i s t := by
  have k := recvStep_kept a p s
  have hack : (recvStep a p s).1.ack ≠ s.ack → ∃ site b, s.upc = .send site b .a4 :=
    fun h => absurd (recvStep_ack a p s) h
  have hdata : (recvStep a p s).1.data ≠ s.data → ∃ a, s.upc = .recv a .k7 := fun h => by
    have hp : p = .k7 := by_contra fun hp => h (recvStep_data hp)
    exact ⟨a, hp ▸ hu⟩
  rcases resume_cases h with ⟨q, -, rfl⟩ | ⟨v, hv, hx⟩ | ⟨-, rfl⟩
  · exact .of_parts hb k (carried_goto Upc.noConfusion _) hack hdata
  · cases i with
    | read address c nostop =>
      have hk7 : s.upc = .recv a .k7 := recvStep_done hv ▸ hu
      have hc := readAfterByte_carried hx
      exact {
        cfg := hc.cfg.trans k.cfg
        epoch := hc.epoch.trans k.epoch
        idle := hc.idle (k.busy.trans hb)
        lvl := fun h => absurd (hc.lvl.trans k.lvl) h
        ack := fun h => hack (hc.ack ▸ h)
        data := fun _ => ⟨a, hk7⟩
        mem := fun _ => ⟨⟨a, hk7⟩, ⟨address, c, nostop, rfl⟩, v, by
          rw [hc.mem, ← k.mem, ← k.idx]
          rfl⟩ }
    | release | driveLow | readLine | start | stop | sendByte | receiveByte | write =>
      cases hx
      exact .of_parts hb k (carried_endOk _) hack hdata
  · exact .of_parts hb k (carried_raise _ _) hack hdata

/-- One step of a running command, by the operation at UPC. -/
theorem runOf_frame (hb : s.busy = true) (h : runOf i s = .next t) : StepFrame i s t := by
  have hp := runOf_hasPlace h
  generalize hu : s.upc = u at hp
  cases hp with
  | line hm => exact stepFrame_line hm (runOf_line hm ▸ h)
  | start hc => exact stepFrame_start hb (runOf_start hc hu ▸ h)
  | stop hc => exact stepFrame_stop hb (runOf_stop hc hu ▸ h)
  | send hc => exact stepFrame_send hb hu (runOf_send hc hu ▸ h)
  | recv hc => exact stepFrame_recv hb hu (runOf_recv hc hu ▸ h)

end Frame

/-! ### The machine's step, by what is done -/

/-- What one step of the machine does, whoever moves (R25, R27, R40, R50, R56, log 2). -/
inductive Moves (s : State) : State → Prop where
  /-- Nothing of the block changes. -/
  | pass (rest : List HostAction) : Moves s { s with host := rest }
  /-- The running command takes its next micro-op. -/
  | run {i : Instr} {rest : List HostAction} {t : State} (hb : s.busy = true)
    (hd : decode s.cmdr = .ok i) (h : runOf i { s with host := rest } = .next t) : Moves s t
  /-- A legal command is accepted. -/
  | accept {i : Instr} {w : Word} (rest : List HostAction) (hb : s.busy = false)
    (hd : decode w = .ok i) (hw : i.wf s.cfg = true) :
    Moves s (entryOf i (loadCommand i { s with host := rest }))
  /-- A word that is no legal command is issued. -/
  | illegal (rest : List HostAction) (hb : s.busy = false) :
    Moves s (illegalCommand { s with host := rest })
  /-- The host writes a byte of TXBUF. -/
  | txWrite {n : Nat} (v : Byte) (rest : List HostAction) (hb : s.busy = false)
    (hn : inTxWindow s.cfg n = true) : Moves s (writeByte n v { s with host := rest })
  /-- The block is reset. -/
  | reset {rest : List HostAction} (hh : s.host = .reset :: rest) :
    Moves s (resetBlock { s with host := rest })

theorem engineStep_moves {s t : State} (rest : List HostAction)
    (h : engineStep { s with host := rest } = .next t) : Moves s t := by
  rcases engineStep_cases h with ⟨-, rfl⟩ | ⟨hb, i, hd, he⟩
  · exact .pass rest
  · exact .run hb hd (exec_busy (s := { s with host := rest }) hb ▸ he)

theorem issue_moves {s t : State} {w : Word} (rest : List HostAction)
    (h : issue w { s with host := rest } = .next t) : Moves s t := by
  rcases issue_cases h with ⟨-, rfl⟩ | ⟨hb, i, hd, he⟩ | ⟨hb, -, rfl⟩
  · exact .pass rest
  · rcases exec_cases he with ⟨hb', -⟩ | ⟨-, hw, rfl⟩ | ⟨-, -, rfl⟩
    · exact absurd (hb.symm.trans hb') Bool.false_ne_true
    · exact .accept rest hb hd hw
    · exact .illegal rest hb
  · exact .illegal rest hb

theorem step_moves {s t : State} (h : step s = .next t) : Moves s t := by
  rcases step_cases h with ⟨-, he⟩ | ⟨rest, -, he⟩ | ⟨n, v, rest, -, hw⟩ | ⟨-, rest, -, rfl⟩ |
    ⟨rest, hh, rfl⟩
  · exact engineStep_moves s.host he
  · exact engineStep_moves rest he
  · rcases hostWrite_cases hw with ⟨-, hi⟩ | ⟨-, hn, hb, rfl⟩ | ⟨-, -, rfl⟩
    · exact issue_moves rest hi
    · exact .txWrite _ rest hb hn
    · exact .pass rest
  · exact .pass rest
  · exact .reset hh

/-- A command's own part of its accept (R27). -/
theorem entryOf_carried (i : Instr) (s : State) : Carried s (entryOf i s) := by
  cases i with
  | release | driveLow | readLine | start | stop | receiveByte =>
    exact carried_goto Upc.noConfusion s
  | sendByte b => exact carried_enterSend _ _ s
  | write address n =>
    change Carried s (enterWrite n s)
    unfold enterWrite
    split
    · exact { carried_endOk { s with nwritten := 0 } with }
    · exact { carried_goto (Upc.noConfusion : Upc.start .s1 ≠ .idle) { s with nwritten := 0 } with }
  | read address c nostop =>
    change Carried s (enterRead c s)
    unfold enterRead
    split
    · exact { carried_endOk { s with nread := 0 } with }
    · exact { carried_goto (Upc.noConfusion : Upc.start .s1 ≠ .idle) { s with nread := 0 } with }

/-! ### Invariants of every step -/

/-- Settles O15: every way a step can go keeps the parameters. -/
theorem parametersNeverChange : Obligations.ParametersNeverChange := by
  intro s t h
  cases step_moves h with
  | @run i rest _ hb hd h => exact (runOf_frame (s := { s with host := rest }) hb h).cfg
  | accept rest => exact (entryOf_carried _ _).cfg
  | pass | illegal | txWrite | reset => rfl

/-- Settles O44: a step that touches UPC or BUSY ends, enters or goes on in an operation. -/
theorem busyExactlyWhenNotIdle : Obligations.BusyExactlyWhenNotIdle := by
  intro s t hidle h
  cases step_moves h with
  | @run i rest _ hb hd h => exact (runOf_frame (s := { s with host := rest }) hb h).idle
  | accept rest => exact (entryOf_carried _ _).idle rfl
  | pass | illegal | txWrite => exact hidle
  | reset => exact iff_of_true rfl rfl

/-- A running command changes a byte of RXBUF only by a READ's store, at IDX (R51, R145). -/
theorem StepFrame.readByte_rx {i : Instr} {s t : State} (f : StepFrame i s t) {k : Nat}
    (h : readByte t (rxBase + k) ≠ readByte s (rxBase + k)) :
    k = s.idx.toNat ∧ (∃ a, s.upc = .recv a .k7) ∧
      ∃ address c nostop, i = .read address c nostop := by
  obtain ⟨hu, hi, v, hv⟩ := f.mem fun hm => h (readByte_congr hm f.epoch _)
  refine ⟨by_contra fun hk => h ?_, hu, hi⟩
  have hne : rxBase + k ≠ rxBase + s.idx.toNat := by omega
  simp only [readByte, hv, f.epoch, Memory.lookup_write_other _ hne]

/-- A host write inside a TXBUF of at most 255 bytes changes no byte of RXBUF (R29). -/
theorem readByte_rx_of_txWrite {s : State} {n : Nat} {v : Byte} (hcap : s.cfg.bufCap ≤ 255)
    (hn : inTxWindow s.cfg n = true) (k : Nat) :
    readByte (writeByte n v s) (rxBase + k) = readByte s (rxBase + k) := by
  refine readByte_writeByte_other s ?_ v
  obtain ⟨-, hlt⟩ : txBase ≤ n ∧ n < txBase + s.cfg.bufCap := of_decide_eq_true hn
  simp only [txBase] at hlt
  simp only [rxBase]
  omega

/-- Settles O53, by what a step can do: a running command's frame names the writers; an accept and a
host write to TXBUF write none of the four. -/
theorem writersOfTheFlags : Obligations.WritersOfTheFlags := by
  intro s t h hreset
  cases step_moves h with
  | @run i rest _ hb hd h =>
    have f := runOf_frame (s := { s with host := rest }) hb h
    refine ⟨fun hl => ?_, fun ha => ⟨hb, f.ack ha⟩, fun hx => ⟨hb, f.data hx⟩, fun k _ _ hr => ?_⟩
    · obtain ⟨hu, l, rfl⟩ := f.lvl hl
      exact ⟨hb, hu, l, hd⟩
    · obtain ⟨hk, hu, address, c, nostop, rfl⟩ := f.readByte_rx hr
      exact ⟨hb, hk, hu, address, c, nostop, hd⟩
  | @accept i w rest =>
    have c := entryOf_carried i (loadCommand i { s with host := rest })
    exact ⟨absurd c.lvl, absurd c.ack, absurd c.data,
      fun _ _ _ hr => absurd (readByte_congr c.mem c.epoch _) hr⟩
  | txWrite v rest hb hn =>
    exact ⟨absurd rfl, absurd rfl, absurd rfl, fun k _ hcap hr =>
      absurd (readByte_rx_of_txWrite (s := { s with host := rest }) hcap hn k) hr⟩
  | pass | illegal => exact ⟨absurd rfl, absurd rfl, absurd rfl, fun _ _ _ => absurd rfl⟩
  | reset hh => exact absurd hh (hreset _)

end Sys2Proof.Machine
end

section
/-! SUPPORT. O42: the invariant as what a running command finds (`Loaded`), the place of its operation
(`OpOk`), and its loops. Each operation keeps its own `OpOk` from place to place and states its end; each
caller's part starts the next operation in its first place. -/

namespace Sys2Proof.Safety

open Sys2Proof.Machine Sys2Proof.Claims

/-! ### The invariant, part by part -/

/-- The command holds the clock line between its operations: WRITE and READ (R35 (c)). -/
def claimsBus : Instr → Prop
  | .write _ _ => True
  | .read _ _ _ => True
  | _ => False

/-- What a transaction finds at the entry of each of its operations (R35 (c)), whatever the command. -/
def ownedAt (s : State) : Prop :=
  match s.upc with
  | .send _ _ .b1 => s.outScl = .drivenLow
  | .send _ _ .b2 => s.outScl = .drivenLow
  | .send _ _ .b3 => s.outScl = .drivenLow
  | .recv _ .c0 => clockHeld s
  | .recv _ .c1 => clockHeld s
  | .stop _ .p0 => clockHeld s
  | .stop _ .p1 => s.outScl = .drivenLow
  | _ => True

/-- The operation at UPC stands as its place says; `tx`: it runs inside a transaction. -/
structure OpOk (tx : Prop) (s : State) : Prop where
  bits : bitLoopOk s
  waits : waitOk s
  lines : linesOk s
  owned : tx → ownedAt s

/-- What the running command `i` finds and no micro-op changes, the buffers apart. -/
structure Loaded (i : Instr) (s : State) : Prop where
  cfgOk : s.cfg.wf
  memOk : s.mem.wf
  windowsOk : inWindows s
  busyOk : s.busy = true
  decodes : decode s.cmdr = .ok i
  legal : i.wf s.cfg = true
  errOk : s.err = .ok

/-- The command's place, loops and operation. -/
structure AtPlace (i : Instr) (s : State) : Prop where
  place : placeOf i s.upc
  loop : loopOk i s
  op : OpOk (claimsBus i) s

theorem ownedOk_iff {i : Instr} {s : State} (h : placeOf i s.upc) :
    ownedOk i s ↔ (claimsBus i → ownedAt s) := by
  cases i with
  | write address n =>
    rcases h with ⟨p, hu⟩ | ⟨p, hu⟩ | ⟨b, p, hu⟩ | ⟨c, p, hu⟩ <;>
      cases p <;> simp [ownedOk, claimsBus, ownedAt, hu]
  | read address c nostop =>
    rcases h with ⟨p, hu⟩ | ⟨p, hu⟩ | ⟨a, p, hu⟩ | ⟨p, hu, -⟩ | ⟨p, hu⟩ <;>
      cases p <;> simp [ownedOk, claimsBus, ownedAt, hu]
  | release | driveLow | readLine | start | stop | sendByte | receiveByte =>
    exact iff_of_true trivial False.elim

/-- A place of a command is not IDLE (R24). -/
theorem not_idle_of_placeOf {i : Instr} {u : Upc} (h : placeOf i u) : u ≠ .idle := by
  rintro rfl
  cases i <;> simp [placeOf] at h

theorem inv_of_running {i : Instr} {s : State} (hl : Loaded i s) (hp : AtPlace i s) : Inv s where
  cfgOk := hl.cfgOk
  idleOk := iff_of_false (not_idle_of_placeOf hp.place) (by simp [hl.busyOk])
  memOk := hl.memOk
  windowsOk := hl.windowsOk
  runOk _ := ⟨i, hl.decodes, hl.legal, hl.errOk, hp.place, hp.loop,
    (ownedOk_iff hp.place).2 hp.op.owned⟩
  bitsOk := hp.op.bits
  waitsOk := hp.op.waits
  outOk := hp.op.lines

theorem running_of_inv {i : Instr} {s : State} (h : Inv s) (hb : s.busy = true)
    (hd : decode s.cmdr = .ok i) : Loaded i s ∧ AtPlace i s := by
  obtain ⟨j, hj, hw, he, hp, hloop, howned⟩ := h.runOk hb
  obtain rfl : j = i := Except.ok.inj (hj.symm.trans hd)
  exact ⟨⟨h.cfgOk, h.memOk, h.windowsOk, hb, hd, hw, he⟩,
    hp, hloop, h.bitsOk, h.waitsOk, h.outOk, (ownedOk_iff hp).1 howned⟩

/-- An idle engine meets the invariant with its parameters and its memory. -/
theorem inv_of_idle {s : State} (hc : s.cfg.wf) (hm : s.mem.wf) (hw : inWindows s)
    (hb : s.busy = false) (hu : s.upc = .idle) : Inv s where
  cfgOk := hc
  idleOk := iff_of_true hu hb
  memOk := hm
  windowsOk := hw
  runOk h := absurd (hb.symm.trans h) Bool.false_ne_true
  bitsOk := by simp [bitLoopOk, hu]
  waitsOk := by simp [waitOk, hu]
  outOk := by simp [linesOk, hu]

theorem Loaded.congr {i : Instr} {s t : State} (h : Loaded i s) (hc : t.cfg = s.cfg)
    (hm : t.mem = s.mem) (hb : t.busy = s.busy) (hr : t.cmdr = s.cmdr) (he : t.err = s.err) :
    Loaded i t where
  cfgOk := hc ▸ h.cfgOk
  memOk := hm ▸ h.memOk
  windowsOk := by
    unfold inWindows
    rw [hc, hm]
    exact h.windowsOk
  busyOk := hb.trans h.busyOk
  decodes := hr ▸ h.decodes
  legal := hc ▸ h.legal
  errOk := he.trans h.errOk

theorem Loaded.of_kept {i : Instr} {s t : State} (h : Loaded i s) (k : Kept s t) : Loaded i t :=
  h.congr k.cfg k.mem k.busy k.cmdr k.err

theorem Loaded.inv_endOk {i : Instr} {s : State} (h : Loaded i s) : Inv (endOk s) :=
  inv_of_idle h.cfgOk h.memOk h.windowsOk rfl rfl

theorem Loaded.inv_raise {i : Instr} {s : State} (h : Loaded i s) (e : ErrCode) :
    Inv (raise e s) :=
  inv_of_idle h.cfgOk h.memOk h.windowsOk rfl rfl

theorem Loaded.inv_conclude {i : Instr} {s : State} (h : Loaded i s) (after : Closing) :
    Inv (conclude after s) := by
  cases after with
  | success => exact h.inv_endOk
  | nakAddress | nakData => exact h.inv_raise _

theorem inWindows_write {s : State} {a : Nat} (v : Byte) (h : inWindows s)
    (ha : (inTxWindow s.cfg a || inRxWindow s.cfg a) = true) : inWindows (writeByte a v s) := by
  intro c hc
  rcases Memory.mem_write hc with rfl | hc
  · exact ha
  · exact h c hc

/-! ### The operations, from place to place -/

/-- What a micro-op of an operation answers: the operation in order at its next place, or its end as
`post` says. -/
def FlowOk {π ρ : Type} (tx : Prop) (place : π → Upc) (post : ρ → State → Prop)
    (r : State × Flow π ρ) : Prop :=
  match r.2 with
  | .go p => OpOk tx (r.1.goto (place p))
  | .done x => post x r.1
  | .stuck => True

/-- A wait that begins has not reached its bound, which is at least 1 (R6, R97). -/
theorem waitExpired_restartWait {s : State} (h : s.cfg.wf) :
    waitExpired s.restartWait = false := by
  have hne : s.cfg.waitLimit ≠ some 0 := by
    intro h0
    simp only [Params.wf, Params.problem, h0] at h
    split_ifs at h
  cases hw : s.cfg.waitLimit with
  | none => simp [waitExpired, hw]
  | some n =>
    have : n ≠ 0 := fun h0 => hne (h0 ▸ hw)
    simp [waitExpired, hw]
    omega

/-- A poll ends well if its place goes on below the bound and its success does. -/
theorem flowOk_afterPoll {π ρ : Type} {tx : Prop} {place : π → Upc} {post : ρ → State → Prop}
    {v : Level} {s : State} {again : π} {on : Flow π ρ}
    (hagain : waitExpired s = false → OpOk tx (s.goto (place again)))
    (hon : FlowOk tx place post (s, on)) : FlowOk tx place post (afterPoll v s again on) := by
  rcases afterPoll_cases v s again on with ⟨-, h⟩ | ⟨-, hw, h⟩ | ⟨-, -, h⟩ <;> rw [h]
  · exact hon
  · exact hagain hw
  · trivial

section Operations

variable {tx : Prop} {s : State}

/-- `start()` ends with the clock driven low (R105). -/
theorem startStep_flowOk {p : StartPos} (hc : s.cfg.wf) (h : OpOk tx (s.goto (.start p))) :
    FlowOk tx .start (fun _ u => u.outScl = .drivenLow) (startStep p s) := by
  obtain ⟨-, -, hl, -⟩ := h
  cases p with
  | s1 => exact ⟨trivial, trivial, rfl, fun _ => trivial⟩
  | s2 => exact ⟨trivial, waitExpired_restartWait hc, ⟨rfl, hl⟩, fun _ => trivial⟩
  | s3 =>
    have hr : bothReleased (poll .bothHigh s).2 :=
      ⟨(poll_outScl _ s).trans hl.1, (poll_outSda _ s).trans hl.2⟩
    exact flowOk_afterPoll (fun hw => ⟨trivial, hw, hr, fun _ => trivial⟩)
      ⟨trivial, trivial, hr, fun _ => trivial⟩
  | s4 => exact ⟨trivial, trivial, ⟨hl.1, rfl⟩, fun _ => trivial⟩
  | s5 => exact ⟨trivial, trivial, hl, fun _ => trivial⟩
  | s6 => exact ⟨trivial, trivial, ⟨rfl, hl.2⟩, fun _ => trivial⟩
  | s7 => exact hl.1

/-- `stop()` (R107). -/
theorem stopStep_flowOk {after : Closing} {p : StopPos} (hc : s.cfg.wf)
    (h : OpOk tx (s.goto (.stop after p))) :
    FlowOk tx (.stop after) (fun _ _ => True) (stopStep p s) := by
  obtain ⟨-, -, hl, ho⟩ := h
  cases p with
  | p0 => exact ⟨trivial, trivial, fun _ => rfl, fun ht => (ho ht).1⟩
  | p1 => exact ⟨trivial, trivial, ⟨rfl, hl⟩, fun _ => trivial⟩
  | p2 => exact ⟨trivial, trivial, hl, fun _ => trivial⟩
  | p3 => exact ⟨trivial, trivial, ⟨hl.1, rfl⟩, fun _ => trivial⟩
  | p4 => exact ⟨trivial, waitExpired_restartWait hc, hl, fun _ => trivial⟩
  | p5 =>
    have hr : bothReleased (poll .bothHigh s).2 :=
      ⟨(poll_outScl _ s).trans hl.1, (poll_outSda _ s).trans hl.2⟩
    exact flowOk_afterPoll (fun hw => ⟨trivial, hw, hr, fun _ => trivial⟩) trivial

/-- The next lower bit is one of 7 to 0 (R120, R125). -/
theorem bit_pred_le {b : BitVec 4} (h : b.toNat ≤ 7) (h0 : b ≠ 0) : (b - 1).toNat ≤ 7 := by
  have : b.toNat ≠ 0 := fun h' => h0 (BitVec.eq_of_toNat_eq h')
  bv_omega

/-- After a data bit the clock is low: for the next bit and for the acknowledge (R120). -/
theorem nextSendBit_flowOk {site : SendSite} {b : Byte} {post : Bool → State → Prop}
    (hb : s.bitcnt.toNat ≤ 7) (hl : s.outScl = .drivenLow) :
    FlowOk tx (.send site b) post (nextSendBit s) := by
  by_cases h0 : s.bitcnt = 0
  · rw [nextSendBit_last h0]
    exact ⟨h0, trivial, hl, fun _ => trivial⟩
  · rw [nextSendBit_more h0]
    exact ⟨bit_pred_le hb h0, trivial, fun _ => hl, fun _ => hl⟩

/-- After a received bit the clock is low and the data line released; a NAK goes on at K2 (R125). -/
theorem nextRecvBit_flowOk {a : Bool} {post : Byte → State → Prop}
    (hb : s.bitcnt.toNat ≤ 7) (hl : clockHeld s) :
    FlowOk tx (.recv a) post (nextRecvBit a s) := by
  by_cases h0 : s.bitcnt = 0
  · rw [nextRecvBit_last h0]
    cases a with
    | true => exact ⟨⟨h0, rfl⟩, trivial, hl, fun _ => trivial⟩
    | false => exact ⟨h0, trivial, hl, fun _ => trivial⟩
  · rw [nextRecvBit_more h0]
    exact ⟨bit_pred_le hb h0, trivial, ⟨hl.2, fun _ => hl.1⟩, fun _ => hl⟩

/-- `send_byte` ends with the clock low, the data line released and ACK as it returns it (R120). -/
theorem sendStep_flowOk {site : SendSite} {b : Byte} {p : SendPos} (hc : s.cfg.wf)
    (h : OpOk tx (s.goto (.send site b p))) :
    FlowOk tx (.send site b) (fun ack u => clockHeld u ∧ u.ack = ack) (sendStep b p s) := by
  obtain ⟨hb, -, hl, ho⟩ := h
  cases p with
  | b1 =>
    simp only [sendStep, SendPos.microOp, perform_dataBitOp]
    exact ⟨hb, trivial, ⟨hl, rfl⟩, ho⟩
  | b2 => exact ⟨hb, trivial, hl, ho⟩
  | b3 => exact ⟨hb, trivial, ⟨rfl, hl.2⟩, fun _ => trivial⟩
  | b4 => exact ⟨hb, trivial, hl, fun _ => trivial⟩
  | b5 => exact nextSendBit_flowOk (s := { s with outScl := .drivenLow }) hb rfl
  | a1 => exact ⟨hb, trivial, ⟨hl, rfl⟩, fun _ => trivial⟩
  | a2 => exact ⟨hb, waitExpired_restartWait hc, ⟨rfl, hl.2⟩, fun _ => trivial⟩
  | a3 =>
    have hr : bothReleased (poll .sclHigh s).2 :=
      ⟨(poll_outScl _ s).trans hl.1, (poll_outSda _ s).trans hl.2⟩
    have hz : (poll .sclHigh s).2.bitcnt = 0 := (poll_bitcnt _ s).trans hb
    exact flowOk_afterPoll (fun hw => ⟨hz, hw, hr, fun _ => trivial⟩)
      ⟨hz, trivial, hr, fun _ => trivial⟩
  | a4 =>
    have hr : bothReleased (sample .sda s).2 :=
      ⟨(sample_outScl _ s).trans hl.1, (sample_outSda _ s).trans hl.2⟩
    exact ⟨⟨(sample_bitcnt _ s).trans hb, rfl⟩, trivial, hr, fun _ => trivial⟩
  | a5 ack => exact ⟨⟨rfl, hl.2⟩, hb.2⟩

/-- `receive_byte` ends with the clock low and the data line released (R125). -/
theorem recvStep_flowOk {a : Bool} {p : RecvPos} (h : OpOk tx (s.goto (.recv a p))) :
    FlowOk tx (.recv a) (fun _ u => clockHeld u) (recvStep a p s) := by
  obtain ⟨hb, -, hl, ho⟩ := h
  cases p with
  | c0 => exact ⟨Nat.le_refl 7, trivial, ⟨rfl, fun h => absurd rfl h⟩, fun ht => ⟨(ho ht).1, rfl⟩⟩
  | c1 => exact ⟨hb, trivial, ⟨rfl, hl.1⟩, fun _ => trivial⟩
  | c2 => exact ⟨hb, trivial, hl, fun _ => trivial⟩
  | c3 =>
    have hr : bothReleased (sample .sda s).2 :=
      ⟨(sample_outScl _ s).trans hl.1, (sample_outSda _ s).trans hl.2⟩
    have hz : (sample .sda s).2.bitcnt.toNat ≤ 7 := (sample_bitcnt .sda s).symm ▸ hb
    exact ⟨hz, trivial, hr, fun _ => trivial⟩
  | c4 => exact ⟨hb, trivial, ⟨rfl, hl.2⟩, fun _ => trivial⟩
  | c5 => exact nextRecvBit_flowOk hb hl
  | k1 =>
    obtain ⟨hz, rfl⟩ := hb
    exact ⟨hz, trivial, ⟨hl.1, rfl⟩, fun _ => trivial⟩
  | k2 => exact ⟨hb, trivial, hl, fun _ => trivial⟩
  | k3 => exact ⟨hb, trivial, ⟨rfl, hl.2⟩, fun _ => trivial⟩
  | k4 => exact ⟨hb, trivial, hl, fun _ => trivial⟩
  | k5 => exact ⟨hb, trivial, ⟨rfl, hl.2⟩, fun _ => trivial⟩
  | k6 => exact ⟨hb, trivial, hl, fun _ => trivial⟩
  | k7 => exact ⟨hl.1, rfl⟩

/-! ### The operations, entered -/

theorem enterStart_opOk : OpOk tx (enterStart s) :=
  ⟨trivial, trivial, trivial, fun _ => trivial⟩

theorem enterSend_opOk (site : SendSite) (b : Byte) (h : tx → s.outScl = .drivenLow) :
    OpOk tx (enterSend site b s) :=
  ⟨Nat.le_refl 7, trivial, fun h => absurd rfl h, h⟩

theorem enterRecv_opOk (a : Bool) (h : tx → clockHeld s) : OpOk tx (enterRecv a s) :=
  ⟨trivial, trivial, trivial, h⟩

theorem enterStop_opOk (after : Closing) (h : tx → clockHeld s) : OpOk tx (enterStop after s) := by
  unfold enterStop stopEntry
  cases hp : s.cfg.stopPredrive with
  | true => exact ⟨trivial, trivial, trivial, h⟩
  | false =>
    refine ⟨trivial, trivial, fun hp' => ?_, fun ht => (h ht).1⟩
    exact absurd (hp.symm.trans hp') Bool.false_ne_true

end Operations

/-! ### The loops, within an operation and from one to the next -/

theorem goto_self {s : State} {u : Upc} (hu : s.upc = u) : s.goto u = s := by
  subst hu
  rfl

section Loops

variable {i : Instr} {s r t : State}

theorem placeOf_start {p : StartPos} (h : placeOf i (.start p)) (q : StartPos) :
    placeOf i (.start q) := by
  cases i <;> simp [placeOf] at h ⊢

theorem placeOf_stop {after : Closing} {p : StopPos} (h : placeOf i (.stop after p)) (q : StopPos) :
    placeOf i (.stop after q) := by
  cases i <;> simp [placeOf] at h ⊢ <;> exact h

theorem placeOf_send {site : SendSite} {b : Byte} {p : SendPos} (h : placeOf i (.send site b p))
    (q : SendPos) : placeOf i (.send site b q) := by
  cases i <;> simp [placeOf] at h ⊢ <;> exact h

theorem placeOf_recv {a : Bool} {p : RecvPos} (h : placeOf i (.recv a p)) (q : RecvPos) :
    placeOf i (.recv a q) := by
  cases i <;> simp [placeOf] at h ⊢
  exact h

theorem loopOk_start (k : Kept s r) {p : StartPos} (h : loopOk i (s.goto (.start p)))
    (q : StartPos) : loopOk i (r.goto (.start q)) := by
  cases i with
  | write => exact ⟨h.1, k.nwritten.trans h.2⟩
  | read => exact ⟨h.1, k.nread.trans h.2⟩
  | release | driveLow | readLine | start | stop | sendByte | receiveByte => trivial

theorem loopOk_stop (k : Kept s r) (ha : r.ack = s.ack) {after : Closing} {p : StopPos}
    (h : loopOk i (s.goto (.stop after p))) (q : StopPos) : loopOk i (r.goto (.stop after q)) := by
  cases i with
  | write address n =>
    obtain ⟨h0, h⟩ := h
    refine ⟨h0, ?_⟩
    cases after with
    | success | nakAddress => exact ⟨k.nwritten.trans h.1, ha.trans h.2⟩
    | nakData => exact ⟨k.nwritten.symm ▸ h.1, k.nwritten.trans (h.2.1.trans k.idx.symm),
        ha.trans h.2.2⟩
  | read address c nostop =>
    obtain ⟨h0, h⟩ := h
    refine ⟨h0, ?_⟩
    cases after with
    | success | nakAddress => exact ⟨k.nread.trans h.1, ha.trans h.2⟩
    | nakData => trivial
  | release | driveLow | readLine | start | stop | sendByte | receiveByte => trivial

theorem loopOk_send (k : Kept s r) {site : SendSite} {b : Byte} {p : SendPos}
    (h : loopOk i (s.goto (.send site b p))) (q : SendPos) :
    loopOk i (r.goto (.send site b q)) := by
  cases i with
  | write address n =>
    obtain ⟨h0, h⟩ := h
    refine ⟨h0, ?_⟩
    cases site with
    | operand => trivial
    | address => exact k.nwritten.trans h
    | data =>
      obtain ⟨hlt, hn, hbyte⟩ := h
      refine ⟨k.idx.symm ▸ hlt, k.nwritten.trans (hn.trans k.idx.symm), ?_⟩
      rw [State.goto_idx, k.idx]
      exact hbyte.trans (readByte_congr k.mem k.epoch _).symm
  | read => exact ⟨h.1, k.nread.trans h.2⟩
  | release | driveLow | readLine | start | stop | sendByte | receiveByte => trivial

theorem loopOk_recv (k : Kept s r) (ha : r.ack = s.ack) {a : Bool} {p : RecvPos}
    (h : loopOk i (s.goto (.recv a p))) (q : RecvPos) : loopOk i (r.goto (.recv a q)) := by
  cases i with
  | write => exact ⟨h.1, trivial⟩
  | read =>
    obtain ⟨h0, hlt, hn, hack, hs⟩ := h
    exact ⟨h0, k.idx.symm ▸ hlt, k.nread.trans (hn.trans k.idx.symm), k.idx.symm ▸ hack,
      ha.trans hs⟩
  | release | driveLow | readLine | start | stop | sendByte | receiveByte => trivial

theorem moreAfter_iff (k n : Byte) : moreAfter k n = true ↔ k.toNat + 1 < n.toNat :=
  decide_eq_true_iff

/-- Below the count the byte loop position does not wrap (R144, R151). -/
theorem succ_toNat_of_more {k n : Byte} (h : moreAfter k n = true) :
    (k + 1).toNat = k.toNat + 1 := by
  have := (moreAfter_iff k n).1 h
  bv_omega

/-- The last byte is the one before the count (R141, R145). -/
theorem succ_eq_of_last {k n : Byte} (hlt : k.toNat < n.toNat) (h : moreAfter k n = false) :
    k + 1 = n := by
  have hge : ¬ k.toNat + 1 < n.toNat := fun h' =>
    Bool.false_ne_true (h.symm.trans ((moreAfter_iff k n).2 h'))
  bv_omega

/-! ### One step of each operation keeps the invariant -/

/-- An operation's step, once its caller's part keeps the invariant. -/
theorem resume_inv {π ρ : Type} {place : π → Upc} {post : ρ → State → Prop}
    {r : State × Flow π ρ} {K : ρ → State → Host.Outcome State Fault Refusal}
    (hl : Loaded i r.1) (hf : FlowOk (claimsBus i) place post r)
    (hplace : ∀ p, placeOf i (place p)) (hloop : ∀ p, loopOk i (r.1.goto (place p)))
    (hK : ∀ x, post x r.1 → K x r.1 = .next t → Inv t) (h : resume r place K = .next t) :
    Inv t := by
  unfold FlowOk at hf
  rcases resume_cases h with ⟨p, hp, rfl⟩ | ⟨x, hx, hr⟩ | ⟨-, rfl⟩
  · rw [hp] at hf
    exact inv_of_running (hl.congr rfl rfl rfl rfl rfl) ⟨hplace p, hloop p, hf⟩
  · rw [hx] at hf
    exact hK x hf hr
  · exact hl.inv_raise _

/-- After `start()`: the address byte of a transaction, or the end (R106, R141, R145). -/
theorem afterStart_inv (hl : Loaded i s) {p : StartPos} (hloop : loopOk i (s.goto (.start p)))
    (hclk : s.outScl = .drivenLow) (h : afterStart i () s = .next t) : Inv t := by
  cases i with
  | write address n =>
    cases h
    exact inv_of_running (hl.congr rfl rfl rfl rfl rfl)
      ⟨.inr (.inl ⟨_, rfl⟩), hloop, enterSend_opOk _ _ fun _ => hclk⟩
  | read address c nostop =>
    cases h
    exact inv_of_running (hl.congr rfl rfl rfl rfl rfl)
      ⟨.inr (.inl ⟨_, rfl⟩), hloop, enterSend_opOk _ _ fun _ => hclk⟩
  | release | driveLow | readLine | start | stop | sendByte | receiveByte =>
    cases h
    exact hl.inv_endOk

/-- A data byte of a WRITE, entered with the clock held (R141). -/
theorem inv_dataByte {address : BitVec 7} {n k : Byte} (hl : Loaded (.write address n) s)
    (hk : k.toNat < n.toNat) (hn : s.nwritten = k) (hclk : clockHeld s) :
    Inv (enterSend .data (readByte s (txBase + k.toNat)) { s with idx := k }) :=
  inv_of_running (hl.congr rfl rfl rfl rfl rfl)
    ⟨.inr (.inr (.inl ⟨_, _, rfl⟩)), ⟨Nat.zero_lt_of_lt hk, hk, hn, rfl⟩,
      enterSend_opOk _ _ fun _ => hclk.1⟩

/-- A byte of a READ, entered with the clock held (R145, R147). -/
theorem inv_readByte {address : BitVec 7} {c k : Byte} {nostop : Bool}
    (hl : Loaded (.read address c nostop) s) (hk : k.toNat < c.toNat) (hn : s.nread = k)
    (ha : s.ack = true) (hclk : clockHeld s) : Inv (enterReadByte k c s) :=
  inv_of_running (hl.congr rfl rfl rfl rfl rfl)
    ⟨.inr (.inr (.inl ⟨_, _, rfl⟩)), ⟨Nat.zero_lt_of_lt hk, hk, hn, rfl, ha⟩,
      enterRecv_opOk _ fun _ => hclk⟩

/-- A `stop()` entered with the clock held. -/
theorem inv_enterStop {after : Closing} (hl : Loaded i s)
    (hp : placeOf i (.stop after (stopEntry s.cfg)))
    (hloop : loopOk i (enterStop after s)) (hclk : clockHeld s) : Inv (enterStop after s) :=
  inv_of_running (hl.congr rfl rfl rfl rfl rfl) ⟨hp, hloop, enterStop_opOk _ fun _ => hclk⟩

theorem writeAfterAddress_inv {address : BitVec 7} {n : Byte} {ack : Bool}
    (hl : Loaded (.write address n) s) (hn : 0 < n.toNat) (hw : s.nwritten = 0)
    (hclk : clockHeld s) (ha : s.ack = ack) (h : writeAfterAddress ack s = .next t) : Inv t := by
  rcases writeAfterAddress_cases h with ⟨-, rfl⟩ | ⟨rfl, rfl⟩
  · exact inv_dataByte (k := 0) hl hn hw hclk
  · exact inv_enterStop hl (.inr (.inr (.inr ⟨_, _, rfl⟩))) ⟨hn, hw, ha⟩ hclk

theorem writeAfterData_inv {address : BitVec 7} {n : Byte} {ack : Bool}
    (hl : Loaded (.write address n) s) (hlt : s.idx.toNat < n.toNat) (hw : s.nwritten = s.idx)
    (hclk : clockHeld s) (ha : s.ack = ack) (h : writeAfterData n ack s = .next t) : Inv t := by
  have h0 : 0 < n.toNat := Nat.zero_lt_of_lt hlt
  rcases writeAfterData_cases h with ⟨-, hm, rfl⟩ | ⟨rfl, hm, rfl⟩ | ⟨rfl, rfl⟩
  · exact inv_dataByte (s := { s with nwritten := s.idx + 1 }) (k := s.idx + 1)
      (hl.congr rfl rfl rfl rfl rfl) (succ_toNat_of_more hm ▸ (moreAfter_iff _ _).1 hm) rfl hclk
  · exact inv_enterStop (s := { s with nwritten := s.idx + 1 }) (hl.congr rfl rfl rfl rfl rfl)
      (.inr (.inr (.inr ⟨_, _, rfl⟩))) ⟨h0, succ_eq_of_last hlt hm, ha⟩ hclk
  · exact inv_enterStop hl (.inr (.inr (.inr ⟨_, _, rfl⟩))) ⟨h0, hw.symm ▸ hlt, hw, ha⟩ hclk

theorem readAfterAddress_inv {address : BitVec 7} {c : Byte} {nostop ack : Bool}
    (hl : Loaded (.read address c nostop) s) (hc : 0 < c.toNat) (hr : s.nread = 0)
    (hclk : clockHeld s) (ha : s.ack = ack) (h : readAfterAddress c ack s = .next t) : Inv t := by
  rcases readAfterAddress_cases h with ⟨rfl, rfl⟩ | ⟨rfl, rfl⟩
  · exact inv_readByte (k := 0) hl hc hr ha hclk
  · exact inv_enterStop hl (.inr (.inr (.inr (.inr ⟨_, rfl⟩)))) ⟨hc, hr, ha⟩ hclk

/-- A READ's store lies inside RXBUF (R51, R52). -/
theorem loaded_storedRead (hl : Loaded i s) (hk : s.idx.toNat < s.cfg.bufCap) (v : Byte) :
    Loaded i (storedRead v s) where
  cfgOk := hl.cfgOk
  memOk := Memory.wf_write hl.memOk _ v
  windowsOk := inWindows_write v hl.windowsOk (by
    have : inRxWindow s.cfg (rxBase + s.idx.toNat) = true :=
      decide_eq_true ⟨Nat.le_add_right _ _, Nat.add_lt_add_left hk _⟩
    simp [this])
  busyOk := hl.busyOk
  decodes := hl.decodes
  legal := hl.legal
  errOk := hl.errOk

theorem readAfterByte_inv {address : BitVec 7} {c : Byte} {nostop : Bool} {v : Byte}
    (hl : Loaded (.read address c nostop) s) (hlt : s.idx.toNat < c.toNat) (ha : s.ack = true)
    (hclk : clockHeld s) (h : readAfterByte c nostop v s = .next t) : Inv t := by
  obtain ⟨hk, ⟨hm, rfl⟩ | ⟨-, -, rfl⟩ | ⟨hm, rfl, rfl⟩⟩ := readAfterByte_cases h
  · exact inv_readByte (loaded_storedRead hl hk v)
      (succ_toNat_of_more hm ▸ (moreAfter_iff _ _).1 hm) rfl ha hclk
  · exact (loaded_storedRead hl hk v).inv_endOk
  · exact inv_enterStop (loaded_storedRead hl hk v) (.inr (.inr (.inr (.inl ⟨_, rfl, rfl⟩))))
      ⟨Nat.zero_lt_of_lt hlt, succ_eq_of_last hlt hm, ha⟩ hclk

/-- After a `send_byte` of command `i`, which its site belongs to (R121, R141, R145). -/
theorem afterSend_inv (hl : Loaded i s) {site : SendSite} {b : Byte} {p : SendPos} {ack : Bool}
    (hloop : loopOk i (s.goto (.send site b p)))
    (hclk : clockHeld s) (ha : s.ack = ack) (h : afterSend i site ack s = .next t) : Inv t := by
  unfold afterSend at h
  split at h
  · exact writeAfterAddress_inv hl hloop.1 hloop.2 hclk ha h
  · exact writeAfterData_inv hl hloop.2.1 hloop.2.2.1 hclk ha h
  · exact readAfterAddress_inv hl hloop.1 hloop.2 hclk ha h
  · cases h
    exact hl.inv_endOk

theorem afterRecv_inv (hl : Loaded i s) {a : Bool} {p : RecvPos} {v : Byte}
    (hloop : loopOk i (s.goto (.recv a p))) (hclk : clockHeld s)
    (h : afterRecv i v s = .next t) : Inv t := by
  cases i with
  | read address c nostop =>
    obtain ⟨-, hlt, -, -, hack⟩ := hloop
    exact readAfterByte_inv hl hlt hack hclk h
  | release | driveLow | readLine | start | stop | sendByte | receiveByte | write =>
    cases h
    exact hl.inv_endOk

theorem lineStep_inv {m : MicroOp} (hl : Loaded i s)
    (h : lineStep m (lineRecord i) s = .next t) : Inv t := by
  obtain ⟨-, rfl⟩ := lineStep_cases h
  have hr : Loaded i (perform m s).2 := hl.of_kept (perform_kept m s)
  cases i with
  | readLine l => exact (hr.congr (t := (perform m s).2.setLvl _) rfl rfl rfl rfl rfl).inv_endOk
  | release | driveLow | start | stop | sendByte | receiveByte | write | read =>
    exact hr.inv_endOk

/-- One step of a running command, by the operation at UPC. -/
theorem runOf_inv (hl : Loaded i s) (hp : AtPlace i s) (h : runOf i s = .next t) : Inv t := by
  have hplace := runOf_hasPlace h
  generalize hu : s.upc = u at hplace
  rw [← goto_self hu] at hp
  obtain ⟨hpl, hloop, hop⟩ := hp
  cases hplace with
  | line hm =>
    rw [runOf_line hm] at h
    exact lineStep_inv hl h
  | @start p hc =>
    rw [runOf_start hc hu] at h
    have k := startStep_kept p s
    exact resume_inv (hl.of_kept k) (startStep_flowOk hl.cfgOk hop) (placeOf_start hpl)
      (loopOk_start k hloop)
      (fun _ hclk => afterStart_inv (hl.of_kept k) (loopOk_start k hloop p) hclk) h
  | @stop after p hc =>
    rw [runOf_stop hc hu] at h
    have k := stopStep_kept p s
    refine resume_inv (hl.of_kept k) (stopStep_flowOk hl.cfgOk hop) (placeOf_stop hpl)
      (loopOk_stop k (stopStep_ack p s) hloop) (fun _ _ he => ?_) h
    cases he
    exact (hl.of_kept k).inv_conclude after
  | @send site b p hc =>
    rw [runOf_send hc hu] at h
    have k := sendStep_kept b p s
    exact resume_inv (hl.of_kept k) (sendStep_flowOk hl.cfgOk hop) (placeOf_send hpl)
      (loopOk_send k hloop)
      (fun _ hpost => afterSend_inv (hl.of_kept k) (loopOk_send k hloop p) hpost.1 hpost.2) h
  | @recv a p hc =>
    rw [runOf_recv hc hu] at h
    have k := recvStep_kept a p s
    have hloop' := loopOk_recv k (recvStep_ack a p s) hloop
    exact resume_inv (hl.of_kept k) (recvStep_flowOk hop) (placeOf_recv hpl) hloop'
      (fun _ hclk => afterRecv_inv (hl.of_kept k) (hloop' p) hclk) h

/-- The accept of a legal command stands at its first place; that of a WRITE or READ of no byte completes
it (R27, R143). -/
theorem entryOf_inv (hl : Loaded i s) : Inv (entryOf i s) := by
  cases i with
  | release | driveLow | readLine =>
    exact inv_of_running (hl.congr rfl rfl rfl rfl rfl)
      ⟨rfl, trivial, trivial, trivial, trivial, fun _ => trivial⟩
  | start =>
    exact inv_of_running (hl.congr rfl rfl rfl rfl rfl) ⟨⟨_, rfl⟩, trivial, enterStart_opOk⟩
  | stop =>
    exact inv_of_running (hl.congr rfl rfl rfl rfl rfl)
      ⟨⟨_, rfl⟩, trivial, enterStop_opOk _ False.elim⟩
  | sendByte b =>
    exact inv_of_running (hl.congr rfl rfl rfl rfl rfl)
      ⟨⟨_, rfl⟩, trivial, enterSend_opOk _ _ False.elim⟩
  | receiveByte a =>
    exact inv_of_running (hl.congr rfl rfl rfl rfl rfl)
      ⟨⟨_, rfl⟩, trivial, enterRecv_opOk _ False.elim⟩
  | write address n =>
    change Inv (enterWrite n s)
    unfold enterWrite
    split
    · exact inv_of_idle hl.cfgOk hl.memOk hl.windowsOk rfl rfl
    · exact inv_of_running (hl.congr rfl rfl rfl rfl rfl)
        ⟨.inl ⟨_, rfl⟩, ⟨BitVec.toNat_pos_of_ne_zero ‹_›, rfl⟩, enterStart_opOk⟩
  | read address c nostop =>
    change Inv (enterRead c s)
    unfold enterRead
    split
    · exact inv_of_idle hl.cfgOk hl.memOk hl.windowsOk rfl rfl
    · exact inv_of_running (hl.congr rfl rfl rfl rfl rfl)
        ⟨.inl ⟨_, rfl⟩, ⟨BitVec.toNat_pos_of_ne_zero ‹_›, rfl⟩, enterStart_opOk⟩

end Loops

/-! ### The machine -/

/-- What the host is going to do is no part of the invariant. -/
theorem inv_host_update {s : State} (h : Inv s) (rest : List HostAction) :
    Inv { s with host := rest } :=
  { h with }

theorem inv_initial {p : Params} (h : p.wf) : Inv (State.initial p) :=
  inv_of_idle h (Memory.wf_initial p) (fun _ hc => absurd hc List.not_mem_nil) rfl rfl

/-- Settles O41: a block right after reset is idle, its memory empty. -/
theorem invAtReset : Obligations.InvAtReset := by
  refine ⟨inv_initial (by decide), fun p s h => ?_⟩
  unfold State.build at h
  split at h
  · cases h
    exact inv_initial ‹_›
  · cases h

/-- Settles O42, by what a step can do: a running command goes from place to place (`runOf_inv`), an
accepted one stands at its first (`entryOf_inv`), and every other step leaves the engine as it is or
idle. -/
theorem invEveryStep : Obligations.InvEveryStep := by
  intro s t hs h
  cases step_moves h with
  | pass rest => exact inv_host_update hs rest
  | @run i rest t hb hd hrun =>
    obtain ⟨hl, hp⟩ := running_of_inv (inv_host_update hs rest) hb hd
    exact runOf_inv hl hp hrun
  | @accept i w rest hb hd hw =>
    refine entryOf_inv ⟨hs.cfgOk, hs.memOk, hs.windowsOk, rfl, ?_, hw, rfl⟩
    exact (congrArg decode (encode_of_decode hd)).trans hd
  | illegal rest hb =>
    exact inv_of_idle hs.cfgOk hs.memOk hs.windowsOk hb (hs.idleOk.2 hb)
  | txWrite v rest hb hn =>
    refine inv_of_idle hs.cfgOk (Memory.wf_write hs.memOk _ v) ?_ hb (hs.idleOk.2 hb)
    exact inWindows_write (s := { s with host := rest }) v hs.windowsOk (by simp [hn])
  | reset hh => exact { inv_initial hs.cfgOk with }

end Sys2Proof.Safety
end

section
/-! SUPPORT. The host port and the step around it: the accept (O12), who runs what (O6, O7), the register
map (O8), STATUS (O11), host actions on a busy engine (O10), reset (O13) and the pads (O17). -/

namespace Sys2Proof.Machine

open Sys2Proof.Claims

/-! ### The issue of a word (R27) -/

theorem issue_busy {s : State} (h : s.busy = true) (w : Word) : issue w s = .next s := by
  simp [issue, h]

theorem issue_decoded {s : State} {w : Word} {i : Instr} (h : s.busy = false)
    (hd : decode w = .ok i) : issue w s = exec i s := by
  simp [issue, h, hd]

theorem issue_error {s : State} {w : Word} {e : DecodeError} (h : s.busy = false)
    (hd : decode w = .error e) : issue w s = .next (illegalCommand s) := by
  simp [issue, h, hd]

/-- A word that is no legal command sets ILLEGAL_CMD and nothing else (R72, R180). -/
theorem issue_illegal {s : State} {w : Word} (h : s.busy = false) (hw : ¬ legalWord s.cfg w) :
    issue w s = .next (illegalCommand s) := by
  cases hd : decode w with
  | error e => exact issue_error h hd
  | ok i =>
    rw [issue_decoded h hd]
    refine exec_idle_illegal h (Bool.eq_false_iff.2 fun hwf => hw ?_)
    exact encode_of_decode hd ▸ legalWord_encode hwf

/-- The accept of a legal word: CMDR keeps the word itself (R27). -/
theorem issue_legal {s : State} {w : Word} {i : Instr} (h : s.busy = false)
    (hd : decode w = .ok i) (hw : i.wf s.cfg = true) :
    issue w s = .next (entryOf i { s with cmdr := w, err := .ok, busy := true }) := by
  rw [issue_decoded h hd, exec_idle h hw, ← encode_of_decode hd]
  rfl

/-- A WRITE of no byte is complete in its accept (R143). -/
theorem enterWrite_eq {n : Byte} {s : State} (hb : s.busy = true) :
    enterWrite n s = { s with nwritten := 0, busy := decide (n ≠ 0),
                              upc := if n = 0 then .idle else .start .s1 } := by
  by_cases hn : n = 0
  · simp [enterWrite, endOk, hn]
  · rw [enterWrite, if_neg hn, if_neg hn, decide_eq_true hn, ← hb]
    rfl

/-- A READ of no byte is complete in its accept (R143). -/
theorem enterRead_eq {c : Byte} {s : State} (hb : s.busy = true) :
    enterRead c s = { s with nread := 0, busy := decide (c ≠ 0),
                             upc := if c = 0 then .idle else .start .s1 } := by
  by_cases hc : c = 0
  · simp [enterRead, endOk, hc]
  · rw [enterRead, if_neg hc, if_neg hc, decide_eq_true hc, ← hb]
    rfl

/-- Settles O12: `issue_legal` with each command's own part of its accept. -/
theorem acceptCommand : Obligations.AcceptCommand := by
  intro s w
  refine ⟨fun h => issue_busy h w, fun h hw => issue_illegal h hw, fun i h hd hw => ?_⟩
  have hacc := issue_legal h hd hw
  cases i with
  | release | driveLow | readLine | start | stop | sendByte | receiveByte => exact hacc
  | write address n => exact hacc.trans (congrArg _ (enterWrite_eq rfl))
  | read address c nostop => exact hacc.trans (congrArg _ (enterRead_eq rfl))

/-! ### The step, by the host's list (log 2) -/

section Step

variable {s : State} {rest : List HostAction}

theorem step_of_silent (h : s.host = []) : step s = engineStep s := by
  simp [step, advance, h]

theorem step_of_wait (h : s.host = .wait :: rest) :
    step s = engineStep { s with host := rest } := by
  simp [step, advance, h]

theorem step_of_write {n : Nat} {v : Word} (h : s.host = .write n v :: rest) :
    step s = hostWrite n v { s with host := rest } := by
  simp [step, advance, h]

theorem step_of_read {n : Nat} (h : s.host = .read n :: rest) :
    step s = .next { s with host := rest } := by
  simp [step, advance, h]

theorem step_of_reset (h : s.host = .reset :: rest) :
    step s = .next (resetBlock { s with host := rest }) := by
  simp [step, advance, h]

theorem engineStep_idle (h : s.busy = false) : engineStep s = .next s := by
  simp [engineStep, h]

theorem engineStep_busy {i : Instr} (h : s.busy = true) (hd : decode s.cmdr = .ok i) :
    engineStep s = exec i s := by
  simp [engineStep, h, hd]

theorem hostWrite_cmd (w : Word) (s : State) : hostWrite 0 w s = issue w s := rfl

/-- A host write to a number outside TXBUF, CMD apart, is ignored (R56). -/
theorem hostWrite_outside {n : Nat} (hn : n ≠ 0) (hx : inTxWindow s.cfg n = false) (v : Word) :
    hostWrite n v s = .next s := by
  simp [hostWrite, hn, hx]

/-- A host write to TXBUF of an idle engine (R50). -/
theorem hostWrite_tx {n : Nat} (hn : n ≠ 0) (hx : inTxWindow s.cfg n = true) (hb : s.busy = false)
    (v : Word) : hostWrite n v s = .next (writeByte n (v.setWidth 8) s) := by
  simp [hostWrite, hn, hx, hb]

/-- A busy engine ignores every host write (R26, R50). -/
theorem hostWrite_busy (h : s.busy = true) (n : Nat) (v : Word) : hostWrite n v s = .next s := by
  by_cases hn : n = 0
  · rw [hn, hostWrite_cmd, issue_busy h]
  · simp [hostWrite, hn, h]

end Step

/-- Settles O6, by the head of the host's list and by BUSY. -/
theorem stepRunsDecodedCommand : Obligations.StepRunsDecodedCommand := by
  intro s i rest
  refine ⟨fun w hh hb hd => ?_, fun hh hb hd => ?_, fun hh hb hd => ?_, fun hh hb => ?_,
    fun hh hb => ?_, fun n hh => step_of_read hh⟩
  · rw [step_of_write hh, hostWrite_cmd]
    exact issue_decoded (s := { s with host := rest }) hb hd
  · rw [step_of_silent hh, engineStep_busy hb hd]
  · rw [step_of_wait hh]
    exact engineStep_busy (s := { s with host := rest }) hb hd
  · rw [step_of_silent hh, engineStep_idle hb]
  · rw [step_of_wait hh]
    exact engineStep_idle (s := { s with host := rest }) hb

/-- Settles O7: a placed word is the host's next write to CMD, of an idle engine. -/
theorem placedWordIsNext : Obligations.PlacedWordIsNext := by
  intro s w i hd
  have hw : BitVec.ofNat 32 (w.toNat % 2 ^ 32) = w := by
    rw [Nat.mod_eq_of_lt w.isLt, BitVec.ofNat_toNat, BitVec.setWidth_eq]
  rw [State.withFetchWord, hw]
  exact issue_decoded (s := { s with busy := false, upc := .idle }) rfl hd

/-- Settles O10: a busy engine ignores writes (`hostWrite_busy`), and a read only passes. -/
theorem busyIgnoresHostWrites : Obligations.BusyIgnoresHostWrites := by
  rintro s a rest hh hb
  refine ⟨?_, ?_⟩
  · rintro n v rfl
    rw [step_of_write hh]
    exact hostWrite_busy (s := { s with host := rest }) hb n v
  · rintro n rfl
    exact step_of_read hh

/-! ### The register map (R29) -/

theorem inTxWindow_iff (p : Params) (n : Nat) :
    inTxWindow p n = true ↔ 0x100 ≤ n ∧ n < 0x100 + p.bufCap :=
  decide_eq_true_iff

theorem inRxWindow_iff (p : Params) (n : Nat) :
    inRxWindow p n = true ↔ 0x200 ≤ n ∧ n < 0x200 + p.bufCap :=
  decide_eq_true_iff

/-- The numbers above NREAD's: a byte of a buffer window, else 0 (R29). -/
theorem hostRead_above {s : State} {n : Nat} (h : 4 < n) :
    hostRead s n =
      if inTxWindow s.cfg n || inRxWindow s.cfg n then (readByte s n).setWidth 32 else 0 := by
  have h1 : n ≠ 1 := by omega
  have h2 : n ≠ 2 := by omega
  have h3 : n ≠ 3 := by omega
  have h4 : n ≠ 4 := by omega
  simp [hostRead, h1, h2, h3, h4]

theorem hostRead_window {s : State} {n : Nat}
    (h : inTxWindow s.cfg n = true ∨ inRxWindow s.cfg n = true) :
    hostRead s n = (readByte s n).setWidth 32 := by
  have hn : 4 < n := by
    rw [inTxWindow_iff, inRxWindow_iff] at h
    omega
  rw [hostRead_above hn, if_pos (by simpa using h)]

theorem hostRead_unmapped {s : State} {n : Nat} (h : 4 < n) (ht : ¬ inTxWindow s.cfg n = true)
    (hr : ¬ inRxWindow s.cfg n = true) : hostRead s n = 0 := by
  rw [hostRead_above h, if_neg (by simp [ht, hr])]

/-- CMD reads 0 (R29). -/
theorem hostRead_cmd (s : State) : hostRead s 0 = 0 := by
  simp [hostRead, inTxWindow, inRxWindow, txBase, rxBase]

/-- Settles O8: the five registers by their numbers, then the windows and what lies outside them. -/
theorem hostReadMap : Obligations.HostReadMap := by
  intro s
  refine ⟨hostRead_cmd s, rfl, rfl, rfl, rfl, fun k hk => ⟨?_, ?_⟩, fun n hn hout => ?_⟩
  · exact hostRead_window (.inl ((inTxWindow_iff _ _).2 (by omega)))
  · exact hostRead_window (.inr ((inRxWindow_iff _ _).2 (by omega)))
  · refine hostRead_unmapped hn (fun h => ?_) (fun h => ?_)
    · obtain ⟨hle, hlt⟩ := (inTxWindow_iff _ _).1 h
      exact (hout (n - 0x100) (by omega)).1 (by omega)
    · obtain ⟨hle, hlt⟩ := (inRxWindow_iff _ _).1 h
      exact (hout (n - 0x200) (by omega)).2 (by omega)

/-! ### STATUS (R31) -/

/-- The fields of STATUS, whatever their values (R31). -/
theorem status_fields (e : BitVec 3) (l a b : Bool) :
    ((0#2) ++ e ++ BitVec.ofBool l ++ BitVec.ofBool a ++ BitVec.ofBool b).getLsbD 0 = b ∧
    ((0#2) ++ e ++ BitVec.ofBool l ++ BitVec.ofBool a ++ BitVec.ofBool b).getLsbD 1 = a ∧
    ((0#2) ++ e ++ BitVec.ofBool l ++ BitVec.ofBool a ++ BitVec.ofBool b).getLsbD 2 = l ∧
    ((0#2) ++ e ++ BitVec.ofBool l ++ BitVec.ofBool a ++ BitVec.ofBool b).extractLsb' 3 3 = e ∧
    ((0#2) ++ e ++ BitVec.ofBool l ++ BitVec.ofBool a ++ BitVec.ofBool b).extractLsb' 6 2 = 0 := by
  revert e l a b
  decide

/-- The numeric codes tell the five errors apart (R175). -/
theorem ErrCode.code_injective : Function.Injective ErrCode.code := by
  intro x y h
  cases x <;> cases y <;> simp [ErrCode.code] at h ⊢

/-- Settles O11: the fields by `status_fields`, the codes one by one, and the write by its number, which
lies in no TXBUF. -/
theorem statusLayout : Obligations.StatusLayout := by
  intro s
  obtain ⟨hbusy, hack, hlvl, herr, hres⟩ := status_fields s.err.code s.lvl s.ack s.busy
  refine ⟨rfl, fun v rest hh => ?_, hbusy, hack, hlvl, herr, hres, ?_, ?_⟩
  · rw [step_of_write hh]
    refine hostWrite_outside (s := { s with host := rest }) (by decide) ?_ v
    exact Bool.eq_false_iff.2 fun h => absurd ((inTxWindow_iff _ _).1 h).1 (by decide)
  · cases s.err <;> decide
  · refine ⟨?_, ?_, ?_, ?_, ?_, rfl⟩ <;> exact ErrCode.code_injective.eq_iff.symm

/-! ### Reset and the pads -/

/-- Settles O13: the next state is `resetBlock`'s, its values those of `State.initial`. -/
theorem resetValues : Obligations.ResetValues := by
  refine ⟨fun s t rest hh h => ?_, fun s rest hh => ⟨_, step_of_reset hh⟩, ⟨rfl, rfl⟩, rfl, rfl, rfl,
    rfl, rfl, rfl, rfl, rfl, rfl⟩
  rw [step_of_reset hh] at h
  cases h
  exact ⟨⟨rfl, rfl⟩, rfl, rfl, rfl, rfl, rfl, rfl, rfl, rfl, rfl, rfl⟩

/-- Settles O17, by the drive state of the line, which is one of two. -/
theorem neverDrivenHigh : Obligations.NeverDrivenHigh := by
  intro s l
  cases h : s.out l with
  | drivenLow => simp [padOe, padLevel, h]
  | released => simp [padOe, padLevel, h]

end Sys2Proof.Machine
end

section
/-! SUPPORT. O59: a run of the machine beside the same run with other values in CMDR, ACC, BITCNT, IDX and
WAITCNT. `Live` says which of these the operation at UPC still reads before it writes them; `Twin` relates
the two states, and every step keeps it. -/

namespace Sys2Proof.Machine

open Sys2Proof.Claims Sys2Proof.Safety

/-- The values `a`, `b`, `k`, `n` for ACC, BITCNT, IDX and WAITCNT are those of `s` in each register that
the operation at UPC reads before it writes it; `tx`: the command's byte loop reads IDX too. -/
def Live (tx : Prop) (a : Byte) (b : BitVec 4) (k : Byte) (n : Nat) (s : State) : Prop :=
  match s.upc with
  | .start .s3 => n = s.waitcnt
  | .stop _ .p5 => n = s.waitcnt
  | .send site _ p => b = s.bitcnt ∧ (p = .a3 → n = s.waitcnt) ∧ (site = .data → k = s.idx)
  | .recv _ .c0 => tx → k = s.idx
  | .recv _ _ => a = s.acc ∧ b = s.bitcnt ∧ (tx → k = s.idx)
  | _ => True

/-- `u` is `s` with other values in the working registers, those that are still read excepted. -/
def Twin (s u : State) : Prop :=
  ∃ w a b k n, u = withWorking w a b k n s ∧
    (s.busy = true → w = s.cmdr ∧ ∃ i, decode s.cmdr = .ok i ∧ Live (claimsBus i) a b k n s)

theorem twin_idle {s : State} (h : s.busy = false) (w : Word) (a : Byte) (b : BitVec 4) (k : Byte)
    (n : Nat) : Twin s (withWorking w a b k n s) :=
  ⟨w, a, b, k, n, rfl, fun hb => absurd (h.symm.trans hb) Bool.false_ne_true⟩

theorem twin_running {i : Instr} {s : State} (hd : decode s.cmdr = .ok i) {a : Byte} {b : BitVec 4}
    {k : Byte} {n : Nat} (h : Live (claimsBus i) a b k n s) :
    Twin s (withWorking s.cmdr a b k n s) :=
  ⟨s.cmdr, a, b, k, n, rfl, fun _ => ⟨rfl, i, hd, h⟩⟩

theorem Twin.host_update {s u : State} (h : Twin s u) (rest : List HostAction) :
    Twin { s with host := rest } { u with host := rest } := by
  obtain ⟨w, a, b, k, n, rfl, hl⟩ := h
  exact ⟨w, a, b, k, n, rfl, hl⟩

/-- In `receive_byte` of a READ the IDX is read at its end (R145). -/
theorem live_recv_idx {tx : Prop} {a : Byte} {b : BitVec 4} {k : Byte} {n : Nat} {s : State} {c : Bool}
    {p : RecvPos} (h : Live tx a b k n (s.goto (.recv c p))) (ht : tx) : k = s.idx := by
  cases p with
  | c0 => exact h ht
  | c1 | c2 | c3 | c4 | c5 | k1 | k2 | k3 | k4 | k5 | k6 | k7 => exact h.2.2 ht

/-! ### Micro-ops read no working register -/

section Micro

variable (w : Word) (a : Byte) (b : BitVec 4) (k : Byte) (n : Nat)

theorem sample_withWorking (l : Line) (s : State) :
    sample l (withWorking w a b k n s)
      = ((sample l s).1, withWorking w a b k n (sample l s).2) := by
  have hout : (withWorking w a b k n s).out l = s.out l := by cases l <;> rfl
  have hans : (withWorking w a b k n s).answers l = s.answers l := by cases l <;> rfl
  cases ho : s.out l with
  | drivenLow => rw [sample_driven (hout.trans ho), sample_driven ho]
  | released =>
    cases ha : s.answers l with
    | nil =>
      rw [sample_free (hout.trans ho) (hans.trans ha), sample_free ho ha]
      rfl
    | cons v vs =>
      rw [sample_script (hout.trans ho) (hans.trans ha), sample_script ho ha]
      cases l <;> rfl

/-- A poll reads no working register and counts in WAITCNT (R96). -/
theorem poll_withWorking (c : WaitCond) (s : State) :
    poll c (withWorking w a b k n s)
      = ((poll c s).1, withWorking w a b k (n + 1) (poll c s).2) := by
  have hcount : ({ withWorking w a b k n s with waitcnt := n + 1 } : State)
      = withWorking w a b k (n + 1) { s with waitcnt := s.waitcnt + 1 } := rfl
  cases c with
  | sclHigh => exact sample_withWorking w a b k (n + 1) .scl { s with waitcnt := s.waitcnt + 1 }
  | bothHigh =>
    simp only [poll]
    rw [show (withWorking w a b k n s).waitcnt = n from rfl, hcount]
    simp only [sample_withWorking]

/-- The events of a micro-op show no working register. -/
theorem MicroOp.events_withWorking (m : MicroOp) (s : State) :
    m.events (withWorking w a b k n s) = m.events s := by
  cases m with
  | release l => rfl
  | driveLow l => rfl
  | sample l => simp only [MicroOp.events, sample_withWorking]
  | hold => rfl
  | wait c => cases c <;> simp only [MicroOp.events, sample_withWorking]

end Micro

/-! ### One micro-op of each operation -/

/-- The answer `r'` of an operation's step is `r` with other working registers: the same flow, and what
the next place reads agrees. IDX is no register of an operation. -/
def Mirrors {π ρ : Type} (tx : Prop) (place : π → Upc) (w : Word) (k : Byte)
    (r r' : State × Flow π ρ) : Prop :=
  ∃ a b n, r' = (withWorking w a b k n r.1, r.2) ∧
    ∀ q, r.2 = .go q → Live tx a b k n (r.1.goto (place q))

section Operations

variable {π ρ : Type} {tx : Prop} {place : π → Upc} {w : Word} {a : Byte} {b : BitVec 4} {k : Byte}
  {n : Nat} {s : State}

theorem mirrors_go {q : π} (h : Live tx a b k n (s.goto (place q))) :
    Mirrors (ρ := ρ) tx place w k (s, .go q) (withWorking w a b k n s, .go q) :=
  ⟨a, b, n, rfl, fun _ hq => by cases hq; exact h⟩

theorem mirrors_done (x : ρ) :
    Mirrors tx place w k (s, .done x) (withWorking w a b k n s, .done x) :=
  ⟨a, b, n, rfl, fun _ hq => by cases hq⟩

/-- A wait reads WAITCNT alone (R97). -/
theorem mirrors_afterPoll (v : Level) {again : π} {on : Flow π ρ}
    (hn : n = s.waitcnt) (hagain : Live tx a b k n (s.goto (place again)))
    (hon : Mirrors tx place w k (s, on) (withWorking w a b k n s, on)) :
    Mirrors tx place w k (afterPoll v s again on)
      (afterPoll v (withWorking w a b k n s) again on) := by
  have hexp : waitExpired (withWorking w a b k n s) = waitExpired s := by
    subst hn
    rfl
  rcases afterPoll_cases v s again on with ⟨rfl, h⟩ | ⟨rfl, hw, h⟩ | ⟨rfl, hw, h⟩
  · exact hon
  · rw [h, afterPoll_low (hexp.trans hw)]
    exact mirrors_go hagain
  · rw [h, afterPoll_expired (hexp.trans hw)]
    exact ⟨a, b, n, rfl, fun _ hq => by cases hq⟩

theorem startStep_mirrors {p : StartPos} (h : Live tx a b k n (s.goto (.start p))) :
    Mirrors tx .start w k (startStep p s) (startStep p (withWorking w a b k n s)) := by
  cases p with
  | s1 => exact mirrors_go (a := a) (b := b) (n := n) trivial
  | s2 => exact mirrors_go (a := a) (b := b) (n := 0) rfl
  | s3 =>
    have hn : n + 1 = (poll .bothHigh s).2.waitcnt := by
      rw [poll_waitcnt]
      exact congrArg (· + 1) h
    simp only [startStep, StartPos.microOp, perform_wait, poll_withWorking]
    exact mirrors_afterPoll _ hn hn (mirrors_go trivial)
  | s4 => exact mirrors_go (a := a) (b := b) (n := n) trivial
  | s5 => exact mirrors_go (a := a) (b := b) (n := n) trivial
  | s6 => exact mirrors_go (a := a) (b := b) (n := n) trivial
  | s7 => exact mirrors_done (a := a) (b := b) (n := n) ()

theorem stopStep_mirrors {after : Closing} {p : StopPos}
    (h : Live tx a b k n (s.goto (.stop after p))) :
    Mirrors tx (.stop after) w k (stopStep p s) (stopStep p (withWorking w a b k n s)) := by
  cases p with
  | p0 => exact mirrors_go (a := a) (b := b) (n := n) trivial
  | p1 => exact mirrors_go (a := a) (b := b) (n := n) trivial
  | p2 => exact mirrors_go (a := a) (b := b) (n := n) trivial
  | p3 => exact mirrors_go (a := a) (b := b) (n := n) trivial
  | p4 => exact mirrors_go (a := a) (b := b) (n := 0) rfl
  | p5 =>
    have hn : n + 1 = (poll .bothHigh s).2.waitcnt := by
      rw [poll_waitcnt]
      exact congrArg (· + 1) h
    simp only [stopStep, StopPos.microOp, perform_wait, poll_withWorking]
    exact mirrors_afterPoll _ hn hn (mirrors_done ())

theorem nextSendBit_mirrors {site : SendSite} {c : Byte} (hb : b = s.bitcnt)
    (hk : site = .data → k = s.idx) :
    Mirrors tx (.send site c) w k (nextSendBit s) (nextSendBit (withWorking w a b k n s)) := by
  subst hb
  by_cases h0 : s.bitcnt = 0
  · rw [nextSendBit_last h0, nextSendBit_last (s := withWorking w a s.bitcnt k n s) h0]
    exact mirrors_go ⟨rfl, SendPos.noConfusion, hk⟩
  · rw [nextSendBit_more h0, nextSendBit_more (s := withWorking w a s.bitcnt k n s) h0]
    exact mirrors_go (s := { s with bitcnt := s.bitcnt - 1 }) (a := a) (b := s.bitcnt - 1) (n := n)
      ⟨rfl, SendPos.noConfusion, hk⟩

theorem sendStep_mirrors {site : SendSite} {c : Byte} {p : SendPos}
    (h : Live tx a b k n (s.goto (.send site c p))) :
    Mirrors tx (.send site c) w k (sendStep c p s) (sendStep c p (withWorking w a b k n s)) := by
  obtain ⟨hb, hn, hk⟩ := h
  have hlive : ∀ {q : SendPos} {t : State}, q ≠ .a3 → t.bitcnt = s.bitcnt → t.idx = s.idx →
      Live tx a b k n (t.goto (.send site c q)) := fun hq htb hti =>
    ⟨hb.trans htb.symm, fun h => absurd h hq, fun h => (hk h).trans hti.symm⟩
  cases p with
  | b1 =>
    have hbit : bitAt c (withWorking w a b k n s).bitcnt = bitAt c s.bitcnt := congrArg _ hb
    simp only [sendStep, SendPos.microOp, hbit, perform_dataBitOp]
    exact mirrors_go (a := a) (b := b) (n := n) (hlive SendPos.noConfusion rfl rfl)
  | b2 => exact mirrors_go (a := a) (b := b) (n := n) (hlive SendPos.noConfusion rfl rfl)
  | b3 => exact mirrors_go (a := a) (b := b) (n := n) (hlive SendPos.noConfusion rfl rfl)
  | b4 => exact mirrors_go (a := a) (b := b) (n := n) (hlive SendPos.noConfusion rfl rfl)
  | b5 => exact nextSendBit_mirrors (s := { s with outScl := .drivenLow }) (a := a) (n := n) hb hk
  | a1 => exact mirrors_go (a := a) (b := b) (n := n) (hlive SendPos.noConfusion rfl rfl)
  | a2 => exact mirrors_go (a := a) (b := b) (n := 0) ⟨hb, fun _ => rfl, hk⟩
  | a3 =>
    have hn' : n + 1 = (poll .sclHigh s).2.waitcnt := by
      rw [poll_waitcnt]
      exact congrArg (· + 1) (hn rfl)
    have hb' : b = (poll .sclHigh s).2.bitcnt := hb.trans (poll_bitcnt _ s).symm
    have hk' : site = .data → k = (poll .sclHigh s).2.idx := fun h => (hk h).trans (poll_idx _ s).symm
    simp only [sendStep, SendPos.microOp, perform_wait, poll_withWorking]
    exact mirrors_afterPoll _ hn' ⟨hb', fun _ => hn', hk'⟩
      (mirrors_go ⟨hb', SendPos.noConfusion, hk'⟩)
  | a4 =>
    simp only [sendStep, SendPos.microOp, perform_sample, sample_withWorking]
    exact mirrors_go (s := (sample .sda s).2.setAck _) (a := a) (b := b) (n := n)
      (hlive SendPos.noConfusion (sample_bitcnt _ s) (sample_idx _ s))
  | a5 ack => exact mirrors_done (a := a) (b := b) (n := n) ack

theorem nextRecvBit_mirrors {c : Bool} (ha : a = s.acc) (hb : b = s.bitcnt)
    (hk : tx → k = s.idx) :
    Mirrors tx (.recv c) w k (nextRecvBit c s) (nextRecvBit c (withWorking w a b k n s)) := by
  subst hb
  by_cases h0 : s.bitcnt = 0
  · rw [nextRecvBit_last h0, nextRecvBit_last (s := withWorking w a s.bitcnt k n s) h0]
    refine mirrors_go ?_
    cases c <;> exact ⟨ha, rfl, hk⟩
  · rw [nextRecvBit_more h0, nextRecvBit_more (s := withWorking w a s.bitcnt k n s) h0]
    exact mirrors_go (s := { s with bitcnt := s.bitcnt - 1 }) (a := a) (b := s.bitcnt - 1) (n := n)
      ⟨ha, rfl, hk⟩

theorem recvStep_mirrors {c : Bool} {p : RecvPos} (h : Live tx a b k n (s.goto (.recv c p))) :
    Mirrors tx (.recv c) w k (recvStep c p s) (recvStep c p (withWorking w a b k n s)) := by
  cases p with
  | c0 => exact mirrors_go (a := 0) (b := 7) (n := n) ⟨rfl, rfl, h⟩
  | c3 =>
    obtain ⟨rfl, hb, hk⟩ := h
    simp only [recvStep, RecvPos.microOp, perform_sample, sample_withWorking]
    refine mirrors_go (s := { (sample .sda s).2 with acc := shiftIn (sample .sda s).2.acc _ })
      (a := shiftIn s.acc (sample .sda s).1) (b := b) (n := n) ⟨?_, ?_, fun ht => ?_⟩
    · exact congrArg (shiftIn · _) (sample_acc _ s).symm
    · exact hb.trans (sample_bitcnt _ s).symm
    · exact (hk ht).trans (sample_idx _ s).symm
  | c5 => exact nextRecvBit_mirrors h.1 h.2.1 h.2.2
  | k7 =>
    obtain ⟨rfl, -, -⟩ := h
    exact mirrors_done (s := { s with outSda := .released, data := s.acc }) (a := s.acc) (b := b)
      (n := n) s.acc
  | c1 | c2 | c4 | k1 | k2 | k3 | k4 | k5 | k6 => exact mirrors_go (a := a) (b := b) (n := n) h

end Operations

/-! ### One step of a running command -/

section Running

variable {i : Instr} {a : Byte} {b : BitVec 4} {k : Byte} {n : Nat} {s t : State}

/-- `send_byte` is entered with its own BITCNT (R120). -/
theorem enterSend_twin {site : SendSite} (c : Byte) (hd : decode s.cmdr = .ok i)
    (hk : site = .data → k = s.idx) :
    Twin (enterSend site c s) (enterSend site c (withWorking s.cmdr a b k n s)) :=
  twin_running (s := enterSend site c s) (b := 7) hd ⟨rfl, SendPos.noConfusion, hk⟩

theorem afterStart_twin {x : Unit} (hd : decode s.cmdr = .ok i) (h : afterStart i x s = .next t) :
    ∃ v, afterStart i x (withWorking s.cmdr a b k n s) = .next v ∧ Twin t v := by
  cases i with
  | write | read =>
    cases h
    exact ⟨_, rfl, enterSend_twin _ hd SendSite.noConfusion⟩
  | release | driveLow | readLine | start | stop | sendByte | receiveByte =>
    cases h
    exact ⟨_, rfl, twin_idle rfl _ _ _ _ _⟩

theorem conclude_twin (after : Closing) :
    Twin (conclude after s) (conclude after (withWorking s.cmdr a b k n s)) := by
  cases after <;> exact twin_idle rfl _ _ _ _ _

/-- A `stop()` reads WAITCNT alone, and writes it before it does (R107). -/
theorem enterStop_twin (hd : decode s.cmdr = .ok i) (after : Closing) :
    Twin (enterStop after s) (enterStop after (withWorking s.cmdr a b k n s)) := by
  refine twin_running (s := enterStop after s) hd ?_
  unfold enterStop stopEntry
  cases s.cfg.stopPredrive <;> exact trivial

/-- The data byte is read at the IDX that is then entered (R63, R141). -/
theorem enterDataByte_twin {j : Byte} (hd : decode s.cmdr = .ok i) (h : enterDataByte j s = .next t) :
    ∃ v, enterDataByte j (withWorking s.cmdr a b k n s) = .next v ∧ Twin t v := by
  have htx : txByte j.toNat (withWorking s.cmdr a b k n s) = txByte j.toNat s := rfl
  unfold enterDataByte at h ⊢
  rw [htx]
  split at h
  · cases h
    exact ⟨_, rfl, enterSend_twin (s := { s with idx := j }) _ hd fun _ => rfl⟩
  · cases h

theorem writeAfterAddress_twin {ack : Bool} (hd : decode s.cmdr = .ok i)
    (h : writeAfterAddress ack s = .next t) :
    ∃ v, writeAfterAddress ack (withWorking s.cmdr a b k n s) = .next v ∧ Twin t v := by
  cases ack with
  | true => exact enterDataByte_twin (j := 0) hd h
  | false =>
    cases h
    exact ⟨_, rfl, enterStop_twin hd _⟩

theorem writeAfterData_twin {len : Byte} {ack : Bool} (hd : decode s.cmdr = .ok i)
    (h : writeAfterData len ack s = .next t) :
    ∃ v, writeAfterData len ack (withWorking s.cmdr a b s.idx n s) = .next v ∧ Twin t v := by
  have hidx : (withWorking s.cmdr a b s.idx n s).idx = s.idx := rfl
  cases ack with
  | true =>
    cases hm : moreAfter s.idx len <;>
      simp only [writeAfterData, hidx, hm, if_true, Bool.false_eq_true, if_false] at h ⊢
    · cases h
      exact ⟨_, rfl, enterStop_twin (s := { s with nwritten := s.idx + 1 }) hd _⟩
    · exact enterDataByte_twin (s := { s with nwritten := s.idx + 1 }) hd h
  | false =>
    cases h
    exact ⟨_, rfl, enterStop_twin hd _⟩

theorem readAfterAddress_twin {c : Byte} {ack : Bool} (hd : decode s.cmdr = .ok i)
    (h : readAfterAddress c ack s = .next t) :
    ∃ v, readAfterAddress c ack (withWorking s.cmdr a b k n s) = .next v ∧ Twin t v := by
  cases ack with
  | true =>
    cases h
    exact ⟨_, rfl, twin_running (s := enterReadByte 0 c s) (k := 0) hd fun _ => rfl⟩
  | false =>
    cases h
    exact ⟨_, rfl, enterStop_twin hd _⟩

theorem readAfterByte_twin {c : Byte} {nostop : Bool} {v : Byte} (hd : decode s.cmdr = .ok i)
    (h : readAfterByte c nostop v s = .next t) :
    ∃ u, readAfterByte c nostop v (withWorking s.cmdr a b s.idx n s) = .next u ∧ Twin t u := by
  obtain ⟨hk, hcase⟩ := readAfterByte_cases h
  have hstore : rxStore s.idx.toNat v (withWorking s.cmdr a b s.idx n s)
      = some (withWorking s.cmdr a b s.idx n (writeByte (rxBase + s.idx.toNat) v s)) :=
    rxStore_of_lt (s := withWorking s.cmdr a b s.idx n s) hk v
  have hidx : (withWorking s.cmdr a b s.idx n s).idx = s.idx := rfl
  have hidx' : (withWorking s.cmdr a b s.idx n (writeByte (rxBase + s.idx.toNat) v s)).idx = s.idx :=
    rfl
  simp only [readAfterByte, hidx, hstore, hidx']
  rcases hcase with ⟨hm, rfl⟩ | ⟨hm, rfl, rfl⟩ | ⟨hm, rfl, rfl⟩ <;>
    simp only [hm, if_true, Bool.false_eq_true, if_false]
  · exact ⟨_, rfl, twin_running (s := enterReadByte (s.idx + 1) c (storedRead v s))
      (k := s.idx + 1) hd fun _ => rfl⟩
  · exact ⟨_, rfl, twin_idle (s := endOk (storedRead v s)) rfl _ _ _ _ _⟩
  · exact ⟨_, rfl, enterStop_twin (s := storedRead v s) hd _⟩

theorem afterSend_twin {site : SendSite} {ack : Bool} (hd : decode s.cmdr = .ok i)
    (hk : site = .data → k = s.idx) (h : afterSend i site ack s = .next t) :
    ∃ v, afterSend i site ack (withWorking s.cmdr a b k n s) = .next v ∧ Twin t v := by
  unfold afterSend at h ⊢
  split at h
  · exact writeAfterAddress_twin hd h
  · obtain rfl := hk rfl
    exact writeAfterData_twin hd h
  · exact readAfterAddress_twin hd h
  · cases h
    exact ⟨_, rfl, twin_idle rfl _ _ _ _ _⟩

theorem afterRecv_twin {v : Byte} (hd : decode s.cmdr = .ok i) (hk : claimsBus i → k = s.idx)
    (h : afterRecv i v s = .next t) :
    ∃ u, afterRecv i v (withWorking s.cmdr a b k n s) = .next u ∧ Twin t u := by
  cases i with
  | read address c nostop =>
    obtain rfl := hk trivial
    exact readAfterByte_twin hd h
  | release | driveLow | readLine | start | stop | sendByte | receiveByte | write =>
    cases h
    exact ⟨_, rfl, twin_idle rfl _ _ _ _ _⟩

/-- An operation's step beside its mirror, once the caller's part agrees. -/
theorem resume_twin {π ρ : Type} {place : π → Upc} {w : Word} {r r' : State × Flow π ρ}
    {K : ρ → State → Host.Outcome State Fault Refusal}
    (hm : Mirrors (claimsBus i) place w k r r') (hw : w = r.1.cmdr) (hd : decode r.1.cmdr = .ok i)
    (hK : ∀ x a b n, K x r.1 = .next t →
      ∃ v, K x (withWorking r.1.cmdr a b k n r.1) = .next v ∧ Twin t v)
    (h : resume r place K = .next t) : ∃ v, resume r' place K = .next v ∧ Twin t v := by
  obtain ⟨a, b, n, rfl, hlive⟩ := hm
  subst hw
  rcases resume_cases h with ⟨q, hq, rfl⟩ | ⟨x, hx, hr⟩ | ⟨hs, rfl⟩
  · refine ⟨withWorking r.1.cmdr a b k n (r.1.goto (place q)), ?_, ?_⟩
    · simp only [resume, hq]
      rfl
    · exact twin_running (s := r.1.goto (place q)) hd (hlive q hq)
  · simp only [resume, hx]
    exact hK x a b n hr
  · refine ⟨withWorking r.1.cmdr a b k n (raise .busStuck r.1), ?_, twin_idle rfl _ _ _ _ _⟩
    simp only [resume, hs]
    rfl

theorem lineStep_twin {m : MicroOp} (hm : lineMicroOp i = some m)
    (h : lineStep m (lineRecord i) s = .next t) :
    ∃ v, lineStep m (lineRecord i) (withWorking s.cmdr a b k n s) = .next v ∧ Twin t v := by
  obtain ⟨hu, rfl⟩ := lineStep_cases h
  have hu' : (withWorking s.cmdr a b k n s).upc = .line := hu
  simp only [lineStep, hu']
  cases i with
  | release l | driveLow l =>
    cases hm
    cases l <;> exact ⟨_, rfl, twin_idle rfl _ _ _ _ _⟩
  | readLine l =>
    cases hm
    simp only [perform_sample, sample_withWorking]
    exact ⟨_, rfl, twin_idle (s := endOk ((sample l s).2.setLvl _)) rfl _ _ _ _ _⟩
  | start | stop | sendByte | receiveByte | write | read => cases hm

/-- One step of a running command beside the same step with other dead working registers. -/
theorem runOf_twin (hd : decode s.cmdr = .ok i) (hl : Live (claimsBus i) a b k n s)
    (h : runOf i s = .next t) :
    ∃ v, runOf i (withWorking s.cmdr a b k n s) = .next v ∧ Twin t v := by
  have hplace := runOf_hasPlace h
  generalize hu : s.upc = u at hplace
  have hu' : (withWorking s.cmdr a b k n s).upc = u := hu
  have hl' : Live (claimsBus i) a b k n (s.goto u) := (goto_self hu).symm ▸ hl
  cases hplace with
  | line hm =>
    rw [runOf_line hm] at h ⊢
    exact lineStep_twin hm h
  | @start p hc =>
    rw [runOf_start hc hu] at h
    rw [runOf_start hc hu']
    have hcmdr := (startStep_kept p s).cmdr
    have hd' := hcmdr.symm ▸ hd
    exact resume_twin (startStep_mirrors hl') hcmdr.symm hd'
      (fun _ _ _ _ => afterStart_twin hd') h
  | @stop after p hc =>
    rw [runOf_stop hc hu] at h
    rw [runOf_stop hc hu']
    have hcmdr := (stopStep_kept p s).cmdr
    refine resume_twin (stopStep_mirrors hl') hcmdr.symm (hcmdr.symm ▸ hd) (fun _ _ _ _ he => ?_) h
    cases he
    exact ⟨_, rfl, conclude_twin after⟩
  | @send site c p hc =>
    rw [runOf_send hc hu] at h
    rw [runOf_send hc hu']
    have kept := sendStep_kept c p s
    have hd' := kept.cmdr.symm ▸ hd
    have hk : site = .data → k = (sendStep c p s).1.idx := fun hs =>
      (hl'.2.2 hs).trans kept.idx.symm
    exact resume_twin (sendStep_mirrors hl') kept.cmdr.symm hd'
      (fun _ _ _ _ => afterSend_twin hd' hk) h
  | @recv c p hc =>
    rw [runOf_recv hc hu] at h
    rw [runOf_recv hc hu']
    have kept := recvStep_kept c p s
    have hd' := kept.cmdr.symm ▸ hd
    have hk : claimsBus i → k = (recvStep c p s).1.idx := fun ht =>
      (live_recv_idx hl' ht).trans kept.idx.symm
    exact resume_twin (recvStep_mirrors hl') kept.cmdr.symm hd'
      (fun _ _ _ _ => afterRecv_twin hd' hk) h

end Running

/-! ### The steps and runs of the machine -/

/-- The accept writes what the first place reads (R27). -/
theorem entryOf_twin {i : Instr} (w : Word) (a : Byte) (b : BitVec 4) (k : Byte) (n : Nat) {s : State}
    (hd : decode (encode i) = .ok i) :
    Twin (entryOf i (loadCommand i s)) (entryOf i (loadCommand i (withWorking w a b k n s))) := by
  cases i with
  | release | driveLow | readLine | start =>
    exact twin_running (s := (loadCommand _ s).goto _) hd trivial
  | stop => exact enterStop_twin (s := loadCommand .stop s) hd .success
  | sendByte c =>
    exact enterSend_twin (s := loadCommand (.sendByte c) s) c hd SendSite.noConfusion
  | receiveByte c =>
    exact twin_running (s := enterRecv c (loadCommand (.receiveByte c) s)) hd False.elim
  | write address len =>
    change Twin (enterWrite len _) (enterWrite len _)
    by_cases hlen : len = 0
    · rw [enterWrite, enterWrite, if_pos hlen, if_pos hlen]
      exact twin_idle rfl _ _ _ _ _
    · rw [enterWrite, enterWrite, if_neg hlen, if_neg hlen]
      exact twin_running (s := enterStart { loadCommand (.write address len) s with nwritten := 0 }) hd
        trivial
  | read address c nostop =>
    change Twin (enterRead c _) (enterRead c _)
    by_cases hc : c = 0
    · rw [enterRead, enterRead, if_pos hc, if_pos hc]
      exact twin_idle rfl _ _ _ _ _
    · rw [enterRead, enterRead, if_neg hc, if_neg hc]
      exact twin_running (s := enterStart { loadCommand (.read address c nostop) s with nread := 0 })
        hd trivial

section Machine

variable {s t u : State}

theorem Twin.busy (h : Twin s u) : u.busy = s.busy := by
  obtain ⟨w, a, b, k, n, rfl, -⟩ := h
  rfl

theorem Twin.cfg (h : Twin s u) : u.cfg = s.cfg := by
  obtain ⟨w, a, b, k, n, rfl, -⟩ := h
  rfl

theorem Twin.host (h : Twin s u) : u.host = s.host := by
  obtain ⟨w, a, b, k, n, rfl, -⟩ := h
  rfl

theorem engineStep_twin (hs : Twin s u) (h : engineStep s = .next t) :
    ∃ v, engineStep u = .next v ∧ Twin t v := by
  rcases engineStep_cases h with ⟨hb, rfl⟩ | ⟨hb, i, hd, he⟩
  · exact ⟨u, engineStep_idle (hs.busy.trans hb), hs⟩
  · obtain ⟨w, a, b, k, n, rfl, hl⟩ := hs
    obtain ⟨rfl, j, hj, hlive⟩ := hl hb
    obtain rfl : j = i := Except.ok.inj (hj.symm.trans hd)
    have hb' : (withWorking s.cmdr a b k n s).busy = true := hb
    rw [engineStep_busy (i := j) hb' hd, exec_busy hb']
    exact runOf_twin hd hlive (exec_busy hb ▸ he)

theorem issue_twin {word : Word} (hs : Twin s u) (h : issue word s = .next t) :
    ∃ v, issue word u = .next v ∧ Twin t v := by
  rcases issue_cases h with ⟨hb, rfl⟩ | ⟨hb, i, hd, he⟩ | ⟨hb, ⟨e, hd⟩, rfl⟩
  · exact ⟨u, issue_busy (hs.busy.trans hb) word, hs⟩
  · have hb' := hs.busy.trans hb
    obtain ⟨w, a, b, k, n, rfl, -⟩ := hs
    rw [issue_decoded hb' hd]
    rcases exec_cases he with ⟨hbusy, -⟩ | ⟨-, hw, rfl⟩ | ⟨-, hw, rfl⟩
    · exact absurd (hb.symm.trans hbusy) Bool.false_ne_true
    · exact ⟨_, exec_idle hb' hw,
        entryOf_twin w a b k n ((congrArg decode (encode_of_decode hd)).trans hd)⟩
    · exact ⟨_, exec_idle_illegal hb' hw, twin_idle (s := illegalCommand s) hb _ _ _ _ _⟩
  · have hb' := hs.busy.trans hb
    obtain ⟨w, a, b, k, n, rfl, -⟩ := hs
    exact ⟨_, issue_error hb' hd, twin_idle (s := illegalCommand s) hb _ _ _ _ _⟩

theorem hostWrite_twin {reg : Nat} {value : Word} (hs : Twin s u)
    (h : hostWrite reg value s = .next t) : ∃ v, hostWrite reg value u = .next v ∧ Twin t v := by
  have hbusy := hs.busy
  have hcfg := hs.cfg
  rcases hostWrite_cases h with ⟨rfl, hi⟩ | ⟨hn, hx, hb, rfl⟩ | ⟨hn, hx | hb, rfl⟩
  · exact issue_twin hs hi
  · refine ⟨_, hostWrite_tx hn (hcfg ▸ hx) (hbusy.trans hb) value, ?_⟩
    obtain ⟨w, a, b, k, n, rfl, -⟩ := hs
    exact twin_idle (s := writeByte reg _ s) hb _ _ _ _ _
  · exact ⟨u, hostWrite_outside hn (hcfg ▸ hx) value, hs⟩
  · exact ⟨u, hostWrite_busy (hbusy.trans hb) reg value, hs⟩

/-- Reset writes every register of the block (R40). -/
theorem resetBlock_twin (hs : Twin s u) : Twin (resetBlock s) (resetBlock u) := by
  obtain ⟨w, a, b, k, n, rfl, -⟩ := hs
  exact twin_idle (s := resetBlock s) rfl 0 0 0 0 0

theorem step_twin (hs : Twin s u) (h : step s = .next t) : ∃ v, step u = .next v ∧ Twin t v := by
  have hhost := hs.host
  rcases step_cases h with ⟨hh, he⟩ | ⟨rest, hh, he⟩ | ⟨reg, value, rest, hh, hw⟩ |
    ⟨reg, rest, hh, rfl⟩ | ⟨rest, hh, rfl⟩
  · rw [step_of_silent (hhost.trans hh)]
    exact engineStep_twin hs he
  · rw [step_of_wait (hhost.trans hh)]
    exact engineStep_twin (hs.host_update rest) he
  · rw [step_of_write (hhost.trans hh)]
    exact hostWrite_twin (hs.host_update rest) hw
  · exact ⟨_, step_of_read (hhost.trans hh), hs.host_update rest⟩
  · exact ⟨_, step_of_reset (hhost.trans hh), resetBlock_twin (hs.host_update rest)⟩

theorem run_succ_cases {m : Nat} (h : Host.Core.run Sys2Proof.core (m + 1) s = .next t) :
    ∃ v, step s = .next v ∧ Host.Core.run Sys2Proof.core m v = .next t := by
  simp only [Host.Core.run] at h
  split at h
  · rename_i v hv
    exact ⟨v, hv, h⟩
  · cases h
  · cases h

theorem run_succ_of_step {v : State} (h : step s = .next v) (m : Nat) :
    Host.Core.run Sys2Proof.core (m + 1) s = Host.Core.run Sys2Proof.core m v := by
  have h' : Sys2Proof.core.step s = .next v := h
  simp only [Host.Core.run, h']

theorem run_twin {m : Nat} (hs : Twin s u) (h : Host.Core.run Sys2Proof.core m s = .next t) :
    ∃ v, Host.Core.run Sys2Proof.core m u = .next v ∧ Twin t v := by
  induction m generalizing s u with
  | zero =>
    cases h
    exact ⟨u, rfl, hs⟩
  | succ m ih =>
    obtain ⟨s', hstep, hrest⟩ := run_succ_cases h
    obtain ⟨u', hu', hs'⟩ := step_twin hs hstep
    rw [run_succ_of_step hu']
    exact ih hs' hrest

/-! ### What twins show -/

theorem Twin.looksAlike (h : Twin s u) : looksAlike s u := by
  obtain ⟨w, a, b, k, n, rfl, -⟩ := h
  exact ⟨fun _ => rfl, rfl, rfl⟩

/-- The micro-op at UPC reads BITCNT alone, in `send_byte` (R120). -/
theorem microOpOf_withWorking {tx : Prop} {w : Word} {a : Byte} {b : BitVec 4} {k : Byte} {n : Nat}
    (h : Live tx a b k n s) (i : Instr) : microOpOf i (withWorking w a b k n s) = microOpOf i s := by
  have hupc : (withWorking w a b k n s).upc = s.upc := rfl
  have hbits : (withWorking w a b k n s).bitcnt = b := rfl
  unfold microOpOf
  rw [hupc, hbits]
  cases hu : s.upc with
  | send site c p =>
    rw [← goto_self hu] at h
    rw [h.1]
    rfl
  | idle | line | start | stop | recv => rfl

theorem Twin.stepEvents (h : Twin s u) : stepEvents s = stepEvents u := by
  cases hb : s.busy with
  | false => rw [stepEvents_idle hb, stepEvents_idle (h.busy.trans hb)]
  | true =>
    obtain ⟨w, a, b, k, n, rfl, hl⟩ := h
    obtain ⟨rfl, i, hd, hlive⟩ := hl hb
    have hmoves : engineMoves (withWorking s.cmdr a b k n s) = engineMoves s := rfl
    cases hm : engineMoves s with
    | false => rw [stepEvents_host hm, stepEvents_host (hmoves.trans hm)]
    | true =>
      have hb' : (withWorking s.cmdr a b k n s).busy = true := hb
      rw [stepEvents_engine hm hd, stepEvents_engine (i := i) (hmoves.trans hm) hd]
      simp only [execEvents, hb, hb', microOpOf_withWorking hlive, MicroOp.events_withWorking]

end Machine

/-- Settles O59: the two idle states are twins, and twins stay so and look alike. -/
theorem workingRegistersNeverShow : Obligations.WorkingRegistersNeverShow := by
  intro m s t w a b k n _ hb h
  obtain ⟨u, hu, htwin⟩ := run_twin (twin_idle hb w a b k n) h
  exact ⟨u, hu, htwin.looksAlike, htwin.stepEvents⟩

end Sys2Proof.Machine
end

section
/-! SUPPORT. O43: no state with the invariant is without a next one. A caller's part stops the machine
only outside a buffer, where the byte loop of a legal command never stands (R52); a place of a command's
pseudocode has a meaning (R24); every host action answers, in any state. -/

namespace Sys2Proof.Safety

open Sys2Proof.Machine Sys2Proof.Claims

section Answers

variable {i : Instr} {s : State}

/-- A legal WRITE sends at most BUF_CAP bytes (R72 (d)). -/
theorem Loaded.write_le_bufCap {address : BitVec 7} {n : Byte}
    (h : Loaded (.write address n) s) : n.toNat ≤ s.cfg.bufCap :=
  of_decide_eq_true h.legal

/-- A legal READ receives at most BUF_CAP bytes (R72 (d)). -/
theorem Loaded.read_le_bufCap {address : BitVec 7} {c : Byte} {nostop : Bool}
    (h : Loaded (.read address c nostop) s) : c.toNat ≤ s.cfg.bufCap :=
  of_decide_eq_true h.legal

/-! ### What follows an operation -/

/-- A caller answers if its part after the operation's result does. -/
theorem resume_answers {π ρ : Type} {r : State × Flow π ρ} {place : π → Upc}
    {K : ρ → State → Host.Outcome State Fault Refusal}
    (hK : ∀ x, ∃ t, K x r.1 = .next t) : ∃ t, resume r place K = .next t := by
  unfold resume
  cases r.2 with
  | go p => exact ⟨_, rfl⟩
  | done x => exact hK x
  | stuck => exact ⟨_, rfl⟩

theorem afterStart_answers (i : Instr) (x : Unit) (s : State) : ∃ t, afterStart i x s = .next t := by
  cases i <;> exact ⟨_, rfl⟩

/-- The engine reads TXBUF inside the buffer (R52). -/
theorem enterDataByte_answers {k : Byte} (h : k.toNat < s.cfg.bufCap) :
    ∃ t, enterDataByte k s = .next t := by
  simp [enterDataByte, txByte, h]

/-- The first data byte of a WRITE of at least one (R141). -/
theorem writeAfterAddress_answers (h : 0 < s.cfg.bufCap) (ack : Bool) :
    ∃ t, writeAfterAddress ack s = .next t := by
  cases ack with
  | true => exact enterDataByte_answers h
  | false => exact ⟨_, rfl⟩

/-- The next data byte is one of the n there are (R141). -/
theorem writeAfterData_answers {n : Byte} (h : n.toNat ≤ s.cfg.bufCap) (ack : Bool) :
    ∃ t, writeAfterData n ack s = .next t := by
  cases ack with
  | false => exact ⟨_, rfl⟩
  | true =>
    cases hm : moreAfter s.idx n <;> simp only [writeAfterData, hm, if_true, Bool.false_eq_true,
      if_false]
    · exact ⟨_, rfl⟩
    · have hlt : (s.idx + 1).toNat < n.toNat :=
        succ_toNat_of_more hm ▸ (moreAfter_iff s.idx n).1 hm
      exact enterDataByte_answers (s := { s with nwritten := s.idx + 1 }) (Nat.lt_of_lt_of_le hlt h)

theorem readAfterAddress_answers (c : Byte) (ack : Bool) (s : State) :
    ∃ t, readAfterAddress c ack s = .next t := by
  cases ack <;> exact ⟨_, rfl⟩

/-- The engine stores to RXBUF inside the buffer (R52). -/
theorem readAfterByte_answers (h : s.idx.toNat < s.cfg.bufCap) (c : Byte) (nostop : Bool) (v : Byte) :
    ∃ t, readAfterByte c nostop v s = .next t := by
  simp only [readAfterByte, rxStore_of_lt h]
  split_ifs <;> exact ⟨_, rfl⟩

/-- After a `send_byte`: the byte a WRITE sends next lies in TXBUF (R52, R141). -/
theorem afterSend_answers (hl : Loaded i s) {site : SendSite} {b : Byte} {p : SendPos}
    (hloop : loopOk i (s.goto (.send site b p))) (ack : Bool) :
    ∃ t, afterSend i site ack s = .next t := by
  unfold afterSend
  split
  · exact writeAfterAddress_answers (Nat.lt_of_lt_of_le hloop.1 hl.write_le_bufCap) ack
  · exact writeAfterData_answers hl.write_le_bufCap ack
  · exact readAfterAddress_answers _ ack s
  · exact ⟨_, rfl⟩

/-- After a `receive_byte`: the byte a READ stores lies in RXBUF (R52, R145). -/
theorem afterRecv_answers (hl : Loaded i s) {a : Bool} {p : RecvPos}
    (hloop : loopOk i (s.goto (.recv a p))) (v : Byte) : ∃ t, afterRecv i v s = .next t := by
  cases i with
  | read address c nostop =>
    obtain ⟨-, hlt, -⟩ := hloop
    exact readAfterByte_answers (s := s) (Nat.lt_of_lt_of_le hlt hl.read_le_bufCap) c nostop v
  | release | driveLow | readLine | start | stop | sendByte | receiveByte | write => exact ⟨_, rfl⟩

/-! ### One step of a running command -/

/-- Every place of a command's pseudocode stands in an operation the command calls (R24). -/
theorem hasPlace_of_placeOf {u : Upc} (h : placeOf i u) : HasPlace i u := by
  cases i with
  | release l | driveLow l | readLine l => cases h; exact .line rfl
  | start => obtain ⟨p, rfl⟩ := h; exact .start trivial
  | stop => obtain ⟨p, rfl⟩ := h; exact .stop rfl
  | sendByte b => obtain ⟨p, rfl⟩ := h; exact .send rfl
  | receiveByte a => obtain ⟨p, rfl⟩ := h; exact .recv trivial
  | write address n =>
    rcases h with ⟨p, rfl⟩ | ⟨p, rfl⟩ | ⟨b, p, rfl⟩ | ⟨c, p, rfl⟩
    · exact .start trivial
    · exact .send (by simp [callsSend])
    · exact .send (by simp [callsSend])
    · exact .stop trivial
  | read address c nostop =>
    rcases h with ⟨p, rfl⟩ | ⟨p, rfl⟩ | ⟨a, p, rfl⟩ | ⟨p, rfl, -⟩ | ⟨p, rfl⟩
    · exact .start trivial
    · exact .send rfl
    · exact .recv trivial
    · exact .stop (by simp [callsStop])
    · exact .stop (by simp [callsStop])

/-- One step of a running command, by the operation at UPC. -/
theorem runOf_answers (hl : Loaded i s) (hp : AtPlace i s) : ∃ t, runOf i s = .next t := by
  have hplace := hasPlace_of_placeOf hp.place
  have hloop := hp.loop
  generalize hu : s.upc = u at hplace
  rw [← goto_self hu] at hloop
  cases hplace with
  | line hm =>
    rw [runOf_line hm]
    simp [lineStep, hu]
  | start hc =>
    rw [runOf_start hc hu]
    exact resume_answers fun x => afterStart_answers i x _
  | stop hc =>
    rw [runOf_stop hc hu]
    exact resume_answers fun _ => ⟨_, rfl⟩
  | @send site b p hc =>
    rw [runOf_send hc hu]
    have k := sendStep_kept b p s
    exact resume_answers fun ack => afterSend_answers (hl.of_kept k) (loopOk_send k hloop p) ack
  | @recv a p hc =>
    rw [runOf_recv hc hu]
    have k := recvStep_kept a p s
    have hloop' := loopOk_recv k (recvStep_ack a p s) hloop p
    exact resume_answers fun v => afterRecv_answers (hl.of_kept k) hloop' v

/-! ### The engine's step and the host's actions -/

/-- An idle engine takes the command or raises ILLEGAL_CMD (R27, R72 (d)). -/
theorem exec_idle_answers (hb : s.busy = false) (i : Instr) : ∃ t, exec i s = .next t := by
  cases hw : i.wf s.cfg with
  | true => exact ⟨_, exec_idle hb hw⟩
  | false => exact ⟨_, exec_idle_illegal hb hw⟩

/-- The issue of any word answers, in any state (R27, R72). -/
theorem issue_answers (w : Word) (s : State) : ∃ t, issue w s = .next t := by
  cases hb : s.busy with
  | true => exact ⟨_, issue_busy hb w⟩
  | false =>
    cases hd : decode w with
    | ok i => exact issue_decoded hb hd ▸ exec_idle_answers hb i
    | error e => exact ⟨_, issue_error hb hd⟩

/-- A host write answers, in any state (R56). -/
theorem hostWrite_answers (n : Nat) (v : Word) (s : State) : ∃ t, hostWrite n v s = .next t := by
  by_cases hn : n = 0
  · exact hn ▸ issue_answers v s
  · rw [hostWrite, if_neg hn]
    split_ifs <;> exact ⟨_, rfl⟩

/-- The engine's step from a state with the invariant (R100, R186). -/
theorem engineStep_answers (h : Inv s) : ∃ t, engineStep s = .next t := by
  cases hb : s.busy with
  | false => exact ⟨_, engineStep_idle hb⟩
  | true =>
    obtain ⟨i, hd, -⟩ := h.runOk hb
    obtain ⟨hl, hp⟩ := running_of_inv h hb hd
    rw [engineStep_busy hb hd, exec_busy hb]
    exact runOf_answers hl hp

end Answers

/-- Settles O43, by who moves: the engine's step answers from the invariant (`engineStep_answers`), a
host action from any state. -/
theorem everyStepAnswersNext : Obligations.EveryStepAnswersNext := by
  intro s hs
  match hh : s.host with
  | [] => exact step_of_silent hh ▸ engineStep_answers hs
  | .wait :: rest => exact step_of_wait hh ▸ engineStep_answers (inv_host_update hs rest)
  | .write n v :: rest => exact step_of_write hh ▸ hostWrite_answers n v _
  | .read n :: rest => exact ⟨_, step_of_read hh⟩
  | .reset :: rest => exact ⟨_, step_of_reset hh⟩

end Sys2Proof.Safety
end

section
/-! SUPPORT. O9: what a host read returns after a byte of a buffer was written. -/

namespace Sys2Proof.Machine

/-- A byte of TXBUF reads back as it was written, zero-extended (R29, R50). -/
theorem hostRead_writeByte_same {s : State} {n : Nat} (h : inTxWindow s.cfg n = true) (v : Byte) :
    hostRead (writeByte n v s) n = v.setWidth 32 := by
  rw [hostRead_window (s := writeByte n v s) (.inl h), readByte_writeByte_same]

/-- The write of one byte leaves every other register as it was (R29). -/
theorem hostRead_writeByte_other {n m : Nat} (h : m ≠ n) (v : Byte) (s : State) :
    hostRead (writeByte n v s) m = hostRead s m := by
  simp only [hostRead, readByte_writeByte_other s h]
  rfl

/-- Settles O9, by the window: a number inside TXBUF is `hostWrite_tx`'s byte, any other but CMD is
`hostWrite_outside`'s. -/
theorem hostWriteEffect : Obligations.HostWriteEffect := by
  intro s n v rest hh
  rw [step_of_write hh]
  refine ⟨fun k hk hn hb => ?_, fun hn hout => ?_⟩
  · have hx : inTxWindow s.cfg n = true := (inTxWindow_iff _ _).2 (by omega)
    refine ⟨_, hostWrite_tx (s := { s with host := rest }) (by omega) hx hb v,
      hostRead_writeByte_same (s := { s with host := rest }) hx _, fun m hm => ?_, rfl⟩
    exact hostRead_writeByte_other hm _ { s with host := rest }
  · refine hostWrite_outside (s := { s with host := rest }) hn (Bool.eq_false_iff.2 fun hx => ?_) v
    obtain ⟨hle, hlt⟩ := (inTxWindow_iff s.cfg n).1 hx
    exact hout (n - 0x100) (by omega) (by omega)

end Sys2Proof.Machine
end

section
/-! SUPPORT. The round trip of the command words (O1, O2), the legal words (O3) and the match/mask rows
(O4). The words of a row are those that `Instr.withOperandsOf` encodes to: a word with the row's OP and
zeros where the row has them is put together again from the operands read off its fields. -/

namespace Sys2Proof

open Sys2Proof.Claims

/-! ### Decoding an assembled word (R70 to R74) -/

/-- Z1 and Z0 are 0 in an assembled word, so its OP decides. -/
theorem decode_assemble (op : BitVec 4) (f : Bool) (n : Byte) (a : BitVec 7) :
    decode (assemble op f n a) = decodeOp (assemble op f n a) := by
  simp [decode]

/-- Zeros in the unused fields are enough (R72 (c)). -/
theorem requireZero_of_zeros {f n a : Bool} {w : Word} (i : Instr)
    (hf : f = true → fField w = false) (hn : n = true → nField w = 0)
    (ha : a = true → addrField w = 0) : requireZero f n a w i = .ok i := by
  rw [requireZero, if_neg (by simpa using hf), if_neg (by simpa using hn), if_neg (by simpa using ha)]

/-- Settles O1: each command's word is assembled with the OP of its row, its operands in the fields the
row uses and zeros in the others. -/
theorem decodeOfEncode : Obligations.DecodeOfEncode := by
  intro i
  cases i <;> simp [encode, decode_assemble, decodeOp, requireZero_of_zeros]

/-- Settles O2: a decoded word's reserved and unused fields are 0 and its operands are its fields, so it is
assembled again from what was read off it. -/
theorem encodeOfDecode : Obligations.EncodeOfDecode :=
  fun _ _ h => encode_of_decode h

/-! ### The legal words (R72) -/

/-- The command of `i`'s row with the operands in the fields of `w` (R73, R74). -/
def Instr.withOperandsOf (w : Word) : Instr → Instr
  | .release _ => .release (lineOfBit (fField w))
  | .driveLow _ => .driveLow (lineOfBit (fField w))
  | .readLine _ => .readLine (lineOfBit (fField w))
  | .start => .start
  | .stop => .stop
  | .sendByte _ => .sendByte (nField w)
  | .receiveByte _ => .receiveByte (fField w)
  | .write _ _ => .write (addrField w) (nField w)
  | .read _ _ _ => .read (addrField w) (nField w) (fField w)

/-- The row of a command does not depend on its operands (R73). -/
@[simp] theorem rowMatchMask_withOperandsOf (w : Word) (i : Instr) :
    rowMatchMask (i.withOperandsOf w) = rowMatchMask i := by
  cases i <;> rfl

/-- A legal word with the OP of `i`'s row is the word of the row's command with `w`'s own operands: the
fields that command does not carry are 0. -/
theorem encode_withOperandsOf {p : Params} {w : Word} {i : Instr} (h : legalWord p w)
    (hop : opField w = opField (encode i)) : encode (i.withOperandsOf w) = w := by
  obtain ⟨-, hz1, hz0, hf, hn, ha, -⟩ := h
  rw [fUnused, hop] at hf
  rw [nUnused, hop] at hn
  rw [addrUnused, hop] at ha
  refine Eq.trans ?_ (hop ▸ assemble_fields hz1 hz0)
  cases i with
  | release | driveLow | readLine | receiveByte =>
    simp [encode, Instr.withOperandsOf, hn (by simp [encode]), ha (by simp [encode])]
  | start | stop =>
    simp [encode, Instr.withOperandsOf, hf (by simp [encode]), hn (by simp [encode]),
      ha (by simp [encode])]
  | sendByte =>
    simp [encode, Instr.withOperandsOf, hf (by simp [encode]), ha (by simp [encode])]
  | write => simp [encode, Instr.withOperandsOf, hf (by simp [encode])]
  | read => simp [encode, Instr.withOperandsOf]

/-- A legal word decodes to the command of its row, with the word's own operands. -/
theorem decode_of_legalWord {p : Params} {w : Word} {i : Instr} (h : legalWord p w)
    (hop : opField w = opField (encode i)) : decode w = .ok (i.withOperandsOf w) :=
  (congrArg decode (encode_withOperandsOf h hop)).symm.trans (decodeOfEncode _)

/-- Every OP from 1 to 9 has a row (R72 (a), R73). -/
theorem exists_row_of_opLegal {w : Word} (h : opLegal w) : ∃ i, opField w = opField (encode i) := by
  obtain ⟨h1, h9⟩ := h
  have hop : opField w = BitVec.ofNat 4 (opField w).toNat := by simp
  rw [hop]
  interval_cases (opField w).toNat
  · exact ⟨.release .scl, by decide⟩
  · exact ⟨.driveLow .scl, by decide⟩
  · exact ⟨.readLine .scl, by decide⟩
  · exact ⟨.start, by decide⟩
  · exact ⟨.stop, by decide⟩
  · exact ⟨.sendByte 0, by decide⟩
  · exact ⟨.receiveByte false, by decide⟩
  · exact ⟨.write 0 0, by decide⟩
  · exact ⟨.read 0 0 false, by decide⟩

/-- The word of a command is legal only when its length fits BUF_CAP (R72 (d)). -/
theorem wf_of_legalWord_encode {p : Params} {i : Instr} (h : legalWord p (encode i)) :
    i.wf p = true := by
  obtain ⟨-, -, -, -, -, -, hcap⟩ := h
  cases i with
  | write | read => exact decide_eq_true (by simpa [encode] using hcap)
  | release | driveLow | readLine | start | stop | sendByte | receiveByte => rfl

/-- Settles O3: a command within BUF_CAP has a legal word, a legal word is the word of its row's command,
and issuing any other is `issue_illegal`. -/
theorem legalCommandsAreExactly : Obligations.LegalCommandsAreExactly := by
  refine ⟨fun p w => ⟨?_, fun h => ?_⟩, fun s w hb hw => Machine.issue_illegal hb hw⟩
  · rintro ⟨i, hd, hwf⟩
    exact encode_of_decode hd ▸ legalWord_encode hwf
  · obtain ⟨i, hop⟩ := exists_row_of_opLegal h.1
    have hd := decode_of_legalWord h hop
    exact ⟨_, hd, wf_of_legalWord_encode ((encode_of_decode hd).symm ▸ h)⟩

/-! ### The match/mask rows (R73) -/

/-- The word of a command selects the command's own row. -/
theorem encode_selects_row (i : Instr) : Laws.RowWord.Statement i := by
  cases i with
  | release l => exact Laws.RowWord.release l
  | driveLow l => exact Laws.RowWord.driveLow l
  | readLine l => exact Laws.RowWord.readLine l
  | start => exact Laws.RowWord.start
  | stop => exact Laws.RowWord.stop
  | sendByte b => exact Laws.RowWord.sendByte b
  | receiveByte a => exact Laws.RowWord.receiveByte a
  | write address len => exact Laws.RowWord.write address len
  | read address count nostop => exact Laws.RowWord.read address count nostop

/-- A row's match is its OP, every other field 0. -/
theorem rowMatch_eq_assemble (i : Instr) :
    (rowMatchMask i).1 = assemble (opField (encode i)) false 0 0 := by
  cases i <;> simp only [encode, opField_assemble] <;> rfl

/-- A row's mask covers OP, Z1, Z0 and the fields its commands do not use. -/
theorem rowMask_covers (i : Instr) :
    opField (rowMatchMask i).2 = BitVec.allOnes 4 ∧ z1Field (rowMatchMask i).2 = BitVec.allOnes 11 ∧
      z0Field (rowMatchMask i).2 = true ∧
      (fUnused (encode i) → fField (rowMatchMask i).2 = true) ∧
      (nUnused (encode i) → nField (rowMatchMask i).2 = BitVec.allOnes 8) ∧
      (addrUnused (encode i) → addrField (rowMatchMask i).2 = BitVec.allOnes 7) := by
  cases i <;> simp only [fUnused, nUnused, addrUnused, encode, opField_assemble, rowMatchMask] <;> decide

/-- A mask cuts every field out of the word on its own (R71). -/
theorem fields_of_and_eq {w mask v : Word} (h : w &&& mask = v) :
    opField w &&& opField mask = opField v ∧ z1Field w &&& z1Field mask = z1Field v ∧
      (z0Field w && z0Field mask) = z0Field v ∧ (fField w && fField mask) = fField v ∧
      nField w &&& nField mask = nField v ∧ addrField w &&& addrField mask = addrField v := by
  subst h
  simp [opField, z1Field, z0Field, fField, nField, addrField, BitVec.extractLsb'_and]

/-- The OP of a command word is one of 1 to 9 (R73). -/
theorem opLegal_encode (i : Instr) : opLegal (encode i) := by
  cases i <;> simp [opLegal, encode]

/-- A word that selects a row has the row's OP and is legal at the default BUF_CAP, 255, which no length
exceeds. -/
theorem legalWord_of_selects {w : Word} {i : Instr}
    (h : w &&& (rowMatchMask i).2 = (rowMatchMask i).1) :
    legalWord Params.default w ∧ opField w = opField (encode i) := by
  rw [rowMatch_eq_assemble] at h
  obtain ⟨hop, hz1, hz0, hf, hn, ha⟩ := fields_of_and_eq h
  obtain ⟨mop, mz1, mz0, mf, mn, ma⟩ := rowMask_covers i
  simp only [opField_assemble, z1Field_assemble, z0Field_assemble, fField_assemble, nField_assemble,
    addrField_assemble, mop, mz1, mz0, BitVec.and_allOnes, Bool.and_true] at hop hz1 hz0 hf hn ha
  have hlegal : opLegal w := by
    rw [opLegal, hop]
    exact opLegal_encode i
  rw [fUnused, ← hop] at mf
  rw [nUnused, ← hop] at mn
  rw [addrUnused, ← hop] at ma
  refine ⟨⟨hlegal, hz1, hz0, fun hu => ?_, fun hu => ?_, fun hu => ?_, fun _ => ?_⟩, hop⟩
  · rwa [mf hu, Bool.and_true] at hf
  · rwa [mn hu, BitVec.and_allOnes] at hn
  · rwa [ma hu, BitVec.and_allOnes] at ha
  · exact Nat.le_of_lt_succ (nField w).isLt

/-- Settles O4: a word that selects the row of `i` decodes to the row's command with its own operands; a
decoded word is its command's own, which selects the row. -/
theorem matchMaskSelectsTheRow : Obligations.MatchMaskSelectsTheRow := by
  intro w i
  constructor
  · intro h
    obtain ⟨hlegal, hop⟩ := legalWord_of_selects h
    exact ⟨_, decode_of_legalWord hlegal hop, rowMatchMask_withOperandsOf w i⟩
  · rintro ⟨j, hd, hrow⟩
    rw [← hrow, ← encode_of_decode hd]
    exact encode_selects_row j

/-- Settles O5, by running the decoder on each of the thirteen words. -/
theorem writtenWordsDecode : Obligations.WrittenWordsDecode := by
  unfold Obligations.WrittenWordsDecode
  decide

end Sys2Proof
end

section
/-! SUPPORT. The line-driver commands from accept to end (O20, O21, O22) and their frame (O48); the level of
a sample (O16); one micro-op changes at most one line (O19). -/

namespace Sys2Proof.Machine

open Sys2Proof.Claims

/-! ### Samples and single lines -/

/-- Settles O16: the three ways a sample goes, each a law of `sample`. -/
theorem levelOfALine : Obligations.LevelOfALine :=
  fun _ _ => ⟨sample_driven, fun _ _ => sample_script, sample_free⟩

/-- A sample changes no drive state (R92). -/
@[simp] theorem sample_out (l k : Line) (s : State) : (sample l s).2.out k = s.out k := by
  cases k <;> simp

/-- No micro-op changes both lines (R102). -/
theorem perform_one_line (m : MicroOp) (s : State) :
    (perform m s).2.outScl = s.outScl ∨ (perform m s).2.outSda = s.outSda := by
  cases m with
  | release l | driveLow l =>
    cases l with
    | scl => exact .inr rfl
    | sda => exact .inl rfl
  | sample l => exact .inl (sample_outScl l s)
  | hold => exact .inl rfl
  | wait c => exact .inl (poll_outScl c s)

/-- A step of a running command changes at most one line: it takes one micro-op (R25, R102). -/
theorem runOf_one_line {i : Instr} {s t : State} (h : runOf i s = .next t) :
    t.outScl = s.outScl ∨ t.outSda = s.outSda := by
  obtain ⟨m, -, hd⟩ := runOf_drives h
  obtain ⟨hscl, hsda⟩ := Prod.mk.inj hd
  rw [hscl, hsda]
  exact perform_one_line m s

theorem engineStep_one_line {s t : State} (h : engineStep s = .next t) :
    t.outScl = s.outScl ∨ t.outSda = s.outSda := by
  rcases engineStep_cases h with ⟨-, rfl⟩ | ⟨hb, i, -, he⟩
  · exact .inl rfl
  · exact runOf_one_line (exec_busy hb ▸ he)

/-- Settles O19: the engine moves with a silent or a waiting host, by one micro-op or none. -/
theorem oneLineAtATime : Obligations.OneLineAtATime := by
  intro s t hm h
  rcases step_cases h with ⟨-, he⟩ | ⟨rest, -, he⟩ | ⟨n, v, rest, hh, -⟩ | ⟨n, rest, hh, -⟩ |
    ⟨rest, hh, -⟩
  · exact engineStep_one_line he
  · exact engineStep_one_line (s := { s with host := rest }) he
  all_goals simp [engineMoves, hh] at hm

/-! ### A line-driver command from accept to end -/

/-- A sample sees nothing of CMDR, ERR, BUSY and UPC. -/
theorem sample_accepted (l : Line) (i : Instr) (u : Upc) (s : State) :
    sample l (accepted i u s) = ((sample l s).1, accepted i u (sample l s).2) := by
  have hout : (accepted i u s).out l = s.out l := by cases l <;> rfl
  have hans : (accepted i u s).answers l = s.answers l := by cases l <;> rfl
  cases ho : s.out l with
  | drivenLow => rw [sample_driven (hout.trans ho), sample_driven ho]
  | released =>
    cases ha : s.answers l with
    | nil => rw [sample_free (hout.trans ho) (hans.trans ha), sample_free ho ha]; rfl
    | cons v vs =>
      rw [sample_script (hout.trans ho) (hans.trans ha), sample_script ho ha]
      cases l <;> rfl

section LineCommand

variable {i : Instr} {m : MicroOp} {s t : State}

/-- The accept of a line-driver command: it is always legal (R27, R72). -/
theorem exec_line_idle (hm : lineMicroOp i = some m) (hb : s.busy = false) :
    exec i s = .next (accepted i .line s) := by
  cases i with
  | release | driveLow | readLine => exact exec_idle hb rfl
  | start | stop | sendByte | receiveByte | write | read => cases hm

/-- The one micro-op of a line-driver command, and its end (R25, R94, R98, R99). -/
theorem exec_line_busy (hm : lineMicroOp i = some m) (hb : s.busy = true) (hu : s.upc = .line) :
    exec i s = .next (endOk (lineRecord i (perform m s).1 (perform m s).2)) := by
  rw [exec_busy hb, runOf_line hm]
  simp only [lineStep, hu]

/-- What one step of a line-driver command can do (R25, R27). -/
theorem exec_line_cases (hm : lineMicroOp i = some m) (h : exec i s = .next t) :
    (s.busy = true ∧ t = endOk (lineRecord i (perform m s).1 (perform m s).2)) ∨
      (s.busy = false ∧ t = accepted i .line s) := by
  cases hb : s.busy with
  | true =>
    rw [exec_busy hb, runOf_line hm] at h
    exact .inl ⟨rfl, (lineStep_cases h).2⟩
  | false => exact .inr ⟨rfl, Host.Outcome.next.inj (h.symm.trans (exec_line_idle hm hb))⟩

/-- The trace of a whole line-driver command: its accept leaves no event (R12, R27). -/
theorem execTrace_line (hm : lineMicroOp i = some m) (hb : s.busy = false) :
    execTrace i 2 s = m.events (accepted i .line s) := by
  have hrun := exec_line_busy (s := accepted i .line s) hm rfl rfl
  have hev : execEvents i (accepted i .line s) = m.events (accepted i .line s) := by
    simp [execEvents, microOpOf, accepted, hm]
  simp only [execTrace, exec_line_idle hm hb, hrun, hev]
  simp [execEvents, hb]

end LineCommand

/-- Settles O20, by the accept and the one micro-op of a line-driver command. -/
theorem releaseCompletes : Obligations.ReleaseCompletes := by
  intro s l hb
  refine ⟨exec_line_idle rfl hb, ?_, execTrace_line (m := .release l) rfl hb⟩
  rw [exec_line_busy rfl rfl rfl]
  cases l <;> rfl

/-- Settles O21, by the accept and the one micro-op of a line-driver command. -/
theorem driveLowCompletes : Obligations.DriveLowCompletes := by
  intro s l hb
  refine ⟨exec_line_idle rfl hb, ?_, execTrace_line (m := .driveLow l) rfl hb⟩
  rw [exec_line_busy rfl rfl rfl]
  cases l <;> rfl

theorem levelBit_eq_decide (v : Level) : levelBit v = decide (v = .high) := by
  cases v <;> rfl

/-- The end of READ_LINE whose sample answers `v` and leaves `u` (R94). -/
theorem exec_readLine_accepted {l : Line} {s u : State} {v : Level} (h : sample l s = (v, u)) :
    exec (.readLine l) (accepted (.readLine l) .line s)
      = .next { u with
          cmdr := encode (.readLine l), err := .ok, busy := false, upc := .idle,
          lvl := decide (v = .high) } := by
  rw [exec_line_busy rfl rfl rfl, perform_sample, sample_accepted, h, ← levelBit_eq_decide]
  rfl

/-- The trace of READ_LINE whose sample answers `v` (R12, R94). -/
theorem execTrace_readLine {l : Line} {s u : State} {v : Level} (hb : s.busy = false)
    (h : sample l s = (v, u)) : execTrace (.readLine l) 2 s = [.smp l v] := by
  rw [execTrace_line rfl hb, MicroOp.events, sample_accepted, h]

/-- Settles O22: READ_LINE ends with what `sample` answers, for each of the three ways a sample goes. -/
theorem readLineCompletes : Obligations.ReadLineCompletes := by
  intro s l hb
  refine ⟨exec_line_idle rfl hb, fun ho => ?_, fun v vs ho ha => ?_, fun ho ha => ?_⟩
  · have h := sample_driven ho
    exact ⟨exec_readLine_accepted h, execTrace_readLine hb h⟩
  · have h := sample_script ho ha
    exact ⟨exec_readLine_accepted h, execTrace_readLine hb h⟩
  · exact exec_readLine_accepted (sample_free ho ha)

/-! ### The frame of the line-driver commands -/

@[simp] theorem endOk_out (s : State) (l : Line) : (endOk s).out l = s.out l := by
  cases l <;> rfl

@[simp] theorem setLvl_out (v : Level) (s : State) (l : Line) : (s.setLvl v).out l = s.out l := by
  cases l <;> rfl

@[simp] theorem accepted_out (i : Instr) (u : Upc) (s : State) (l : Line) :
    (accepted i u s).out l = s.out l := by
  cases l <;> rfl

/-- What no step of a line-driver command touches: the parameters, the registers of the other commands,
the buffers and the host's part (R94, R98, R99). -/
structure LineFrame (s t : State) : Prop where
  cfg : t.cfg = s.cfg
  acc : t.acc = s.acc
  data : t.data = s.data
  bitcnt : t.bitcnt = s.bitcnt
  idx : t.idx = s.idx
  waitcnt : t.waitcnt = s.waitcnt
  nwritten : t.nwritten = s.nwritten
  nread : t.nread = s.nread
  ack : t.ack = s.ack
  host : t.host = s.host
  epoch : t.epoch = s.epoch
  mem : t.mem = s.mem

theorem exec_line_frame {i : Instr} {m : MicroOp} {s t : State} (hm : lineMicroOp i = some m)
    (h : exec i s = .next t) : LineFrame s t := by
  rcases exec_line_cases hm h with ⟨-, rfl⟩ | ⟨-, rfl⟩
  · cases i with
    | release | driveLow | readLine => cases hm; constructor <;> simp [lineRecord]
    | start | stop | sendByte | receiveByte | write | read => cases hm
  · constructor <;> rfl

/-- Settles O48: beside `LineFrame`, the accept changes CMDR, ERR, BUSY and UPC only; the micro-op changes
OUT of its line, or LVL and the environment's part. -/
theorem lineDriverFrame : Obligations.LineDriverFrame := by
  intro s t l i hi h
  obtain ⟨m, hm⟩ : ∃ m, lineMicroOp i = some m := by
    rcases hi with rfl | rfl | rfl <;> exact ⟨_, rfl⟩
  have f := exec_line_frame hm h
  refine ⟨f.cfg, f.acc, f.data, f.bitcnt, f.idx, f.waitcnt, f.nwritten, f.nread, f.ack, f.host,
    f.epoch, readByte_congr f.mem f.epoch, ?_⟩
  rcases exec_line_cases hm h with ⟨hb, rfl⟩ | ⟨hb, rfl⟩
  · rcases hi with rfl | rfl | rfl <;> cases hm <;>
      simp +contextual [lineRecord, hb, State.setOut_out_other]
  · exact ⟨fun k _ => accepted_out i .line s k, fun _ => accepted_out i .line s l,
      fun _ => ⟨rfl, rfl, rfl, rfl⟩, fun h => absurd (hb.symm.trans h) Bool.false_ne_true,
      fun _ => ⟨rfl, accepted_out i .line s l⟩⟩

end Sys2Proof.Machine
end

section
/-! SUPPORT. O39, O40: a wait whose polls fail. `FailedPolls` is the run of polls, whatever the condition;
`WaitPlace` names the three waits; below the bound each failed poll keeps the place, at the bound it
raises BUS_STUCK (R96, R97). -/

namespace Sys2Proof.Machine

open Sys2Proof.Claims

/-! ### A run of failed polls -/

/-- `n` polls of condition `c` from `s`, none of which holds, end in `t` (R96). -/
inductive FailedPolls (c : WaitCond) : Nat → State → State → Prop where
  | zero (s : State) : FailedPolls c 0 s s
  | succ {n : Nat} {s u t : State} (hp : poll c s = (.low, u)) (h : FailedPolls c n u t) :
    FailedPolls c (n + 1) s t

theorem bothHigh_eq_low {a b : Level} : bothHigh a b = .low ↔ ¬ (a = .high ∧ b = .high) := by
  cases a <;> cases b <;> decide

/-- The scripts of both released lines make the two-line condition fail (R93, R96). -/
theorem failedPolls_bothHigh {c d : List Level} {ps : List (Level × Level)} (hf : allFail ps)
    {s : State} (ho : s.outScl = .released) (hd : s.outSda = .released)
    (hc : s.sclIn = ps.map Prod.fst ++ c) (hs : s.sdaIn = ps.map Prod.snd ++ d) :
    FailedPolls .bothHigh ps.length s
      { s with waitcnt := s.waitcnt + ps.length, sclIn := c, sdaIn := d } := by
  induction ps generalizing s with
  | nil =>
    obtain rfl : s.sclIn = c := hc
    obtain rfl : s.sdaIn = d := hs
    exact .zero s
  | cons q ps ih =>
    have hp := poll_both_script ho hd hc hs
    rw [bothHigh_eq_low.2 (hf q List.mem_cons_self)] at hp
    have hrest := ih (fun q hq => hf q (List.mem_cons_of_mem _ hq))
      (s := { s with waitcnt := s.waitcnt + 1, sclIn := ps.map Prod.fst ++ c,
                     sdaIn := ps.map Prod.snd ++ d }) ho hd rfl rfl
    exact .succ hp (by simpa [Nat.add_assoc, Nat.add_comm 1] using hrest)

/-- The script of the released clock makes the clock condition fail (R93, R96). -/
theorem failedPolls_sclHigh {c : List Level} {ps : List (Level × Level)}
    (hf : ∀ q ∈ ps, q.1 = .low) {s : State} (ho : s.outScl = .released)
    (hc : s.sclIn = ps.map Prod.fst ++ c) :
    FailedPolls .sclHigh ps.length s
      { s with waitcnt := s.waitcnt + ps.length, sclIn := c } := by
  induction ps generalizing s with
  | nil =>
    obtain rfl : s.sclIn = c := hc
    exact .zero s
  | cons q ps ih =>
    have hp := poll_scl_script ho hc
    rw [hf q List.mem_cons_self] at hp
    have hrest := ih (fun q hq => hf q (List.mem_cons_of_mem _ hq))
      (s := { s with waitcnt := s.waitcnt + 1, sclIn := ps.map Prod.fst ++ c }) ho rfl
    exact .succ hp (by simpa [Nat.add_assoc, Nat.add_comm 1] using hrest)

/-! ### The three waits -/

/-- Command `i` waits at place `u` for condition `c`: S3, P5 or A3 (R105, R107, R120). -/
inductive WaitPlace (i : Instr) : WaitCond → Upc → Prop where
  | start (h : callsStart i) : WaitPlace i .bothHigh (.start .s3)
  | stop {after : Closing} (h : callsStop i after) : WaitPlace i .bothHigh (.stop after .p5)
  | send {site : SendSite} {b : Byte} (h : callsSend i site) :
    WaitPlace i .sclHigh (.send site b .a3)

/-- A failed poll as its caller sees it: the same wait again, or the end with BUS_STUCK (R96, R97). -/
theorem resume_failed_poll {π ρ : Type} {place : π → Upc} {again : π} {t : State}
    (hu : t.upc = place again) (on : Flow π ρ)
    (K : ρ → State → Host.Outcome State Fault Refusal) :
    resume (afterPoll .low t again on) place K
      = .next (if waitExpired t then raise .busStuck t else t) := by
  cases hx : waitExpired t with
  | true => rw [afterPoll_expired hx]; rfl
  | false =>
    rw [afterPoll_low hx]
    exact congrArg Host.Outcome.next (by rw [State.goto, ← hu]; rfl)

/-- One failed poll at a wait of a running command (R25, R96, R97). -/
theorem exec_failed_poll {i : Instr} {c : WaitCond} {s t : State} (hw : WaitPlace i c s.upc)
    (hb : s.busy = true) (hp : poll c s = (.low, t)) :
    exec i s = .next (if waitExpired t then raise .busStuck t else t) := by
  have hu : t.upc = s.upc := by simpa [hp] using poll_upc c s
  generalize hp' : s.upc = u at hw hu
  rw [exec_busy hb]
  cases hw with
  | start hc =>
    rw [runOf_start hc hp']
    simp only [startStep, StartPos.microOp, perform_wait, hp]
    exact resume_failed_poll hu _ _
  | stop hc =>
    rw [runOf_stop hc hp']
    simp only [stopThenConclude, stopStep, StopPos.microOp, perform_wait, hp]
    exact resume_failed_poll hu _ _
  | send hc =>
    rw [runOf_send hc hp']
    simp only [sendStep, SendPos.microOp, perform_wait, hp]
    exact resume_failed_poll hu _ _

/-- What a failed poll keeps of a wait: the command still stands at it, with one poll more counted. -/
structure StillWaiting (s t : State) : Prop where
  upc : t.upc = s.upc
  busy : t.busy = s.busy
  cfg : t.cfg = s.cfg
  waitcnt : t.waitcnt = s.waitcnt + 1

theorem stillWaiting_of_poll {c : WaitCond} {v : Level} {s t : State} (hp : poll c s = (v, t)) :
    StillWaiting s t := by
  obtain rfl : (poll c s).2 = t := congrArg Prod.snd hp
  constructor <;> simp

theorem execMany_succ {i : Instr} {s t : State} (h : exec i s = .next t) (k : Nat) :
    execMany i (k + 1) s = execMany i k t := by
  simp [execMany, h]

/-- Failed polls below the bound, or with none set, keep the engine at its wait (R96, R112, R196). -/
theorem execMany_failedPolls {i : Instr} {c : WaitCond} {n : Nat} {s t : State}
    (h : FailedPolls c n s t) (hw : WaitPlace i c s.upc) (hb : s.busy = true)
    (hn : boundAllows s.cfg (s.waitcnt + n)) : execMany i n s = .next t := by
  induction h with
  | zero s => rfl
  | @succ n s u t hp _ ih =>
    obtain ⟨hupc, hbusy, hcfg, hcnt⟩ := stillWaiting_of_poll hp
    have hx : waitExpired u = false := not_expired (hcfg ▸ hn) (by omega)
    have he := exec_failed_poll hw hb hp
    rw [hx] at he
    rw [execMany_succ he]
    exact ih (hupc ▸ hw) (hbusy.trans hb) (by rw [hcfg, hcnt, Nat.add_assoc, Nat.add_comm 1]; exact hn)

/-- The failed poll that reaches the bound raises BUS_STUCK (R97, R179). -/
theorem execMany_failedPolls_bound {i : Instr} {c : WaitCond} {n : Nat} {s t : State}
    (h : FailedPolls c n s t) (h0 : n ≠ 0) (hw : WaitPlace i c s.upc) (hb : s.busy = true)
    (hn : s.cfg.waitLimit = some (s.waitcnt + n)) :
    execMany i n s = .next (raise .busStuck t) := by
  induction h with
  | zero s => exact absurd rfl h0
  | @succ n s u t hp hrest ih =>
    obtain ⟨hupc, hbusy, hcfg, hcnt⟩ := stillWaiting_of_poll hp
    have he := exec_failed_poll hw hb hp
    have hlimit : u.cfg.waitLimit = some (u.waitcnt + n) := by
      rw [hcfg, hn, hcnt, Nat.add_assoc, Nat.add_comm 1]
    have hx : waitExpired u = decide (u.waitcnt + n ≤ u.waitcnt) := by
      simp only [waitExpired, hlimit]
    cases hrest with
    | zero =>
      rw [hx, decide_eq_true (by omega)] at he
      exact execMany_succ he 0
    | succ =>
      rw [hx, decide_eq_false (by omega)] at he
      rw [execMany_succ he]
      exact ih (by omega) (hupc ▸ hw) (hbusy.trans hb) hlimit

theorem waitPlace_bothHigh {i : Instr} {s : State}
    (h : callsStart i ∧ s.upc = .start .s3 ∨ ∃ k, callsStop i k ∧ s.upc = .stop k .p5) :
    WaitPlace i .bothHigh s.upc := by
  rcases h with ⟨hc, hu⟩ | ⟨k, hc, hu⟩
  · exact hu ▸ .start hc
  · exact hu ▸ .stop hc

theorem waitPlace_sclHigh {i : Instr} {s : State}
    (h : ∃ site b, callsSend i site ∧ s.upc = .send site b .a3) : WaitPlace i .sclHigh s.upc := by
  obtain ⟨site, b, hc, hu⟩ := h
  exact hu ▸ .send hc

/-- Settles O39: with no bound every run of failed polls is below it. -/
theorem unboundedWaitGoesOn : Obligations.UnboundedWaitGoesOn := by
  intro i s ps c d hb hlimit ho hd hc
  have hn : boundAllows s.cfg (s.waitcnt + ps.length) := by simp [boundAllows, hlimit]
  refine ⟨fun hw hf hs => ?_, fun hw hf => ?_⟩
  · exact execMany_failedPolls (failedPolls_bothHigh hf ho hd hc hs) (waitPlace_bothHigh hw) hb hn
  · exact execMany_failedPolls (failedPolls_sclHigh hf ho hc) (waitPlace_sclHigh hw) hb hn

/-- Settles O40: the wait begins at WAITCNT = 0, so its last poll is the one that reaches the bound. -/
theorem nthFailedPollRaisesBusStuck : Obligations.NthFailedPollRaisesBusStuck := by
  intro i s ps c d hb hne hlimit h0 ho hd hc
  have hlen : ps.length ≠ 0 := by simpa using hne
  have hn : s.cfg.waitLimit = some (s.waitcnt + ps.length) := by rw [hlimit, h0, Nat.zero_add]
  refine ⟨fun hw hf hs => ?_, fun hw hf => ?_⟩
  · have h := execMany_failedPolls_bound (failedPolls_bothHigh hf ho hd hc hs) hlen
      (waitPlace_bothHigh hw) hb hn
    simpa [h0, raise] using h
  · have h := execMany_failedPolls_bound (failedPolls_sclHigh hf ho hc) hlen
      (waitPlace_sclHigh hw) hb hn
    simpa [h0, raise] using h

end Sys2Proof.Machine
end

section
/-! SUPPORT. O58: the traces of START, STOP, SEND_BYTE and RECEIVE_BYTE from an idle engine, their accept
included (R27), and the holds in them (R95, R216). -/

namespace Sys2Proof.Machine

open Sys2Proof.Claims

/-! ### The four commands from their accept on -/

/-- The accept of a legal command leaves no event; the rest of the run is the command's own (R12, R27). -/
theorem Runs.of_idle {i : Instr} {k : Nat} {s : State} {tr : List Event}
    {o : Host.Outcome State Fault Refusal} (hb : s.busy = false) (hw : i.wf s.cfg = true)
    (r : Runs i k (entryOf i (loadCommand i s)) tr o) : Runs i (k + 1) s tr o := by
  have hev : execEvents i s = [] := by simp [execEvents, hb]
  simpa [hev] using Runs.step (exec_idle hb hw) r

section Calls

variable {i : Instr}

theorem exec_start (h : callsStart i) (t : State) (p : StartPos) (hb : t.busy = true)
    (hu : t.upc = .start p) : exec i t = resume (startStep p t) .start (afterStart i) :=
  (exec_busy hb).trans (runOf_start h hu)

theorem exec_stop {after : Closing} (h : callsStop i after) (t : State) (p : StopPos)
    (hb : t.busy = true) (hu : t.upc = .stop after p) :
    exec i t = resume (stopStep p t) (.stop after) (fun _ u => .next (conclude after u)) :=
  (exec_busy hb).trans (runOf_stop h hu)

theorem exec_send {site : SendSite} {b : Byte} (h : callsSend i site) (t : State) (p : SendPos)
    (hb : t.busy = true) (hu : t.upc = .send site b p) :
    exec i t = resume (sendStep b p t) (.send site b) (afterSend i site) :=
  (exec_busy hb).trans (runOf_send h hu)

theorem exec_recv {a : Bool} (h : callsRecv i) (t : State) (p : RecvPos) (hb : t.busy = true)
    (hu : t.upc = .recv a p) : exec i t = resume (recvStep a p t) (.recv a) (afterRecv i) :=
  (exec_busy hb).trans (runOf_recv h hu)

end Calls

theorem bothHigh_low_of_allFail {ps : List (Level × Level)} (h : allFail ps) :
    ∀ q ∈ ps, bothHigh q.1 q.2 = .low :=
  fun q hq => bothHigh_eq_low.2 (h q hq)

theorem polls_eq (ps : List (Level × Level)) : polls ps = pollEvents ps := rfl

section Commands

variable {s : State} {ps : List (Level × Level)} {c d : List Level}

/-- The events of `start()` with its wait failing at the polls `ps`: block S with these between its two
releases and the poll that holds (R105). -/
def startEvents (ps : List (Level × Level)) : List Event :=
  blockStart.take 2 ++ pollEvents ps ++ blockStart.drop 2

/-- The trace of START with its wait failing at the polls `ps` (R105, R106). -/
theorem execTrace_start (hb : s.busy = false) (hf : allFail ps) (hn : mayFail s.cfg ps.length)
    (hc : s.sclIn = ps.map Prod.fst ++ .high :: c) (hd : s.sdaIn = ps.map Prod.snd ++ .high :: d) :
    execTrace .start (ps.length + 8) s = startEvents ps := by
  have r := start_runs (s := enterStart (loadCommand .start s)) (exec_start (i := .start) trivial)
    (bothHigh_low_of_allFail hf) rfl rfl hc hd hn
  exact (Runs.of_idle hb rfl r).2

/-- P0 is one step more, where P_STOP_PREDRIVE asks for it (R107, R113). -/
theorem stopOps_eq (p : Params) : stopOps p = (predriveEvents p).length + 5 := by
  cases h : p.stopPredrive <;> simp [stopOps, predriveEvents, h]

/-- The trace of STOP with its wait failing at the polls `ps` (R107, R109, R113). -/
theorem execTrace_stop (hb : s.busy = false) (hf : allFail ps) (hn : mayFail s.cfg ps.length)
    (hc : s.sclIn = ps.map Prod.fst ++ .high :: c) (hd : s.sdaIn = ps.map Prod.snd ++ .high :: d) :
    execTrace .stop (stopOps s.cfg + ps.length + 1) s = stopEvents s.cfg ps := by
  have hk : stopOps s.cfg + ps.length = (predriveEvents s.cfg).length + (ps.length + 5) := by
    rw [stopOps_eq, Nat.add_right_comm, Nat.add_assoc]
  have r := stop_runs (s := enterStop .success (loadCommand .stop s)) (exec_stop (i := .stop) rfl)
    (bothHigh_low_of_allFail hf) rfl rfl hc hd hn
  rw [hk]
  refine (Runs.of_idle hb rfl r).2.trans (?_ : predriveEvents s.cfg ++ _ = _)
  simp [stopEvents, predriveEvents, polls_eq]

/-- The trace of SEND_BYTE, the acknowledge's clock stretched for `n` polls (R120, R121). -/
theorem execTrace_sendByte {n : Nat} {v : Level} (b : Byte) (hb : s.busy = false)
    (hn : mayFail s.cfg n) (hc : s.sclIn = List.replicate n .low ++ .high :: c)
    (hd : s.sdaIn = v :: d) :
    execTrace (.sendByte b) (n + 46) s = dataBitEvents b ++ ackEvents n v := by
  have r := send_runs (s := enterSend .operand b (loadCommand (.sendByte b) s))
    (exec_send (i := .sendByte b) rfl) rfl rfl rfl hc hd hn
  exact (Runs.of_idle hb rfl r).2

theorem blockRecv_length (b : Byte) (a : Bool) :
    (blockRecv b a).length = if a then 48 else 47 := by
  cases a <;> rfl

/-- The trace of RECEIVE_BYTE, the environment presenting `b` (R125, R127). -/
theorem execTrace_receiveByte {a : Bool} {b : Byte} (hb : s.busy = false)
    (hd : s.sdaIn = byteLevels b ++ d) :
    execTrace (.receiveByte a) (if a then 49 else 48) s = blockRecv b a := by
  have hk : (if a then 49 else 48) = (blockRecv b a).length + 1 := by
    rw [blockRecv_length]
    cases a <;> rfl
  have r := recv_runs (s := enterRecv a (loadCommand (.receiveByte a) s))
    (exec_recv (i := .receiveByte a) trivial) rfl rfl hd
  rw [hk]
  exact (Runs.of_idle hb rfl r).2

end Commands

/-! ### Their holds (R95, R216) -/

/-- Polls hold nothing: they only sample (R96). -/
@[simp] theorem count_hold_pollEvents (ps : List (Level × Level)) :
    (pollEvents ps).count .hold = 0 := by
  simp [List.count_eq_zero, pollEvents]

@[simp] theorem count_hold_startEvents (ps : List (Level × Level)) :
    (startEvents ps).count .hold = 2 := by
  simp [startEvents, blockStart]

@[simp] theorem count_hold_stopEvents (p : Params) (ps : List (Level × Level)) :
    (stopEvents p ps).count .hold = 2 := by
  cases h : p.stopPredrive <;> simp [stopEvents, polls_eq, h]

@[simp] theorem count_hold_blockBit (bit : Bool) : (blockBit bit).count .hold = 2 := by
  cases bit <;> decide

@[simp] theorem count_hold_dataBitEvents (b : Byte) : (dataBitEvents b).count .hold = 16 := by
  simp [dataBitEvents]

@[simp] theorem count_hold_ackEvents (n : Nat) (v : Level) : (ackEvents n v).count .hold = 0 := by
  simp [ackEvents, List.count_replicate]

@[simp] theorem count_hold_blockRecvBit (v : Level) : (blockRecvBit v).count .hold = 2 := by
  cases v <;> decide

@[simp] theorem count_hold_blockRecvAck (a : Bool) : (blockRecvAck a).count .hold = 3 := by
  cases a <;> decide

@[simp] theorem count_hold_blockRecv (b : Byte) (a : Bool) : (blockRecv b a).count .hold = 19 := by
  simp [blockRecv, byteLevels]

/-- Settles O58: each command's trace is known, and its holds are counted block by block. -/
theorem leastDurations : Obligations.LeastDurations := by
  intro s hb
  refine ⟨fun ps c d hf hn hc hd => ⟨?_, ?_⟩, fun b n v c d hn hc hd => ?_, fun a b d hd => ?_⟩
  · simp [minDuration, execTrace_start hb hf hn hc hd]
  · simp [minDuration, execTrace_stop hb hf hn hc hd]
  · simp [minDuration, execTrace_sendByte b hb hn hc hd]
  · simp [minDuration, execTrace_receiveByte hb hd]

end Sys2Proof.Machine
end

section
/-! SUPPORT. The Condition Generator: each micro-op of `start()` and `stop()` in every command that calls
them (O23, O25), START and STOP from accept to end (O24, O26), and their frame (O49). -/

namespace Sys2Proof.Machine

open Sys2Proof.Claims

/-! ### The micro-ops of `start()` and `stop()` -/

/-- One poll as its caller sees it: on, the same wait again, or the end with BUS_STUCK (R96, R97). `r` is
the poll's answer and the state after it, `f` what the caller does on success. -/
theorem resume_afterPoll {π ρ : Type} {place : π → Upc} {again : π} {r : Level × State}
    (hu : r.2.upc = place again) {on : Flow π ρ} {K : ρ → State → Host.Outcome State Fault Refusal}
    {f : State → State} (hon : resume (r.2, on) place K = .next (f r.2)) :
    resume (afterPoll r.1 r.2 again on) place K = afterOnePoll r f := by
  obtain ⟨v, t⟩ := r
  cases v with
  | high => exact hon
  | low =>
    rw [resume_failed_poll hu]
    simp only [afterOnePoll, waitExpired_iff]
    split <;> rfl

/-- Settles O23, by the place in `start()`: a release, a drive or a hold leads to one state, the poll of S3
to the outcomes of `afterOnePoll`. -/
theorem startMicroOps : Obligations.StartMicroOps := by
  intro i s hc hb
  have hplace := fun p => exec_start hc s p hb
  refine ⟨hplace .s1, hplace .s2, fun hu => ?_, hplace .s4, hplace .s5, hplace .s6, ?_⟩
  · exact (hplace .s3 hu).trans (resume_afterPoll ((poll_upc .bothHigh s).trans hu) rfl)
  · rintro hu rfl
    exact hplace .s7 hu

/-- Settles O25, by the place in `stop()`: P0 to P4 lead to one state each; the success of the poll P5 is
the end that `c` names. -/
theorem stopMicroOps : Obligations.StopMicroOps := by
  intro i c s hc hb
  have hplace := fun p => exec_stop hc s p hb
  refine ⟨hplace .p0, hplace .p1, hplace .p2, hplace .p3, hplace .p4, fun hu => ?_⟩
  refine (hplace .p5 hu).trans (resume_afterPoll ((poll_upc .bothHigh s).trans hu) ?_)
  cases c <;> rfl

/-! ### START and STOP from accept to end -/

/-- Settles O24: the accept, then `start()` with its failed polls, which START ends (R105, R106). -/
theorem startCompletes : Obligations.StartCompletes := by
  intro s ps c d hb hf hn hc hd
  have run := start_runs (s := accepted .start (.start .s1) s) (exec_start (i := .start) trivial)
    (bothHigh_low_of_allFail hf) rfl rfl hc hd hn
  exact ⟨exec_idle hb rfl, run.1, execTrace_start hb hf hn hc hd⟩

/-- Settles O26: the accept, then `stop()` with its failed polls, from P0 or P1 as P_STOP_PREDRIVE has it
(R107, R109, R113). -/
theorem stopCompletes : Obligations.StopCompletes := by
  intro s ps c d hb hf hn hc hd
  have run := stop_runs (s := accepted .stop (.stop .success (stopEntry s.cfg)) s)
    (exec_stop (i := .stop) rfl) (bothHigh_low_of_allFail hf) rfl rfl hc hd hn
  refine ⟨exec_idle hb rfl, ?_, execTrace_stop hb hf hn hc hd⟩
  rw [stopOps_eq, Nat.add_right_comm, Nat.add_assoc]
  exact run.1

/-! ### The frame of START and STOP -/

/-- What no step of START or STOP touches: the parameters, the registers of the other commands, the flags
ACK and LVL, the buffers and the host's part (R106, R109). -/
structure ConditionKept (s t : State) : Prop where
  cfg : t.cfg = s.cfg
  acc : t.acc = s.acc
  data : t.data = s.data
  bitcnt : t.bitcnt = s.bitcnt
  idx : t.idx = s.idx
  nwritten : t.nwritten = s.nwritten
  nread : t.nread = s.nread
  ack : t.ack = s.ack
  lvl : t.lvl = s.lvl
  host : t.host = s.host
  epoch : t.epoch = s.epoch
  mem : t.mem = s.mem

theorem perform_conditionKept (m : MicroOp) (s : State) : ConditionKept s (perform m s).2 := by
  constructor <;> simp

theorem startStep_conditionKept (p : StartPos) (s : State) : ConditionKept s (startStep p s).1 := by
  cases p with
  | s2 => exact { perform_conditionKept (.release .scl) s with }
  | s3 => simpa [startStep] using perform_conditionKept _ s
  | s1 | s4 | s5 | s6 | s7 => exact perform_conditionKept _ s

theorem stopStep_conditionKept (p : StopPos) (s : State) : ConditionKept s (stopStep p s).1 := by
  cases p with
  | p4 => exact { perform_conditionKept .hold s with }
  | p5 => simpa [stopStep] using perform_conditionKept _ s
  | p0 | p1 | p2 | p3 => exact perform_conditionKept _ s

/-- The frame of one step of a running START or STOP: CMDR stays, and ERR but for BUS_STUCK (R176). -/
structure ConditionStep (s t : State) : Prop extends ConditionKept s t where
  cmdr : t.cmdr = s.cmdr
  err : t.err = s.err ∨ t.err = .busStuck

/-- An operation that is followed by the normal end alone: it goes on, ends, or raises BUS_STUCK. -/
theorem resume_conditionStep {π ρ : Type} {s t : State} {r : State × Flow π ρ} {place : π → Upc}
    {K : ρ → State → Host.Outcome State Fault Refusal} (hK : ∀ x, K x r.1 = .next (endOk r.1))
    (k : Kept s r.1) (f : ConditionKept s r.1) (h : resume r place K = .next t) :
    ConditionStep s t := by
  rcases resume_cases h with ⟨p, -, rfl⟩ | ⟨x, -, hx⟩ | ⟨-, rfl⟩
  · exact { f with cmdr := k.cmdr, err := .inl k.err }
  · obtain rfl : endOk r.1 = t := Host.Outcome.next.inj ((hK x).symm.trans hx)
    exact { f with cmdr := k.cmdr, err := .inl k.err }
  · exact { f with cmdr := k.cmdr, err := .inr rfl }

/-- START and STOP run one operation each, `start()` or `stop()`, and end after it (R106, R109). -/
theorem runOf_conditionStep {i : Instr} {s t : State} (hi : i = .start ∨ i = .stop)
    (h : runOf i s = .next t) : ConditionStep s t := by
  have hp := runOf_hasPlace h
  generalize hu : s.upc = u at hp
  rcases hi with rfl | rfl
  · cases hp with
    | start hc =>
      exact resume_conditionStep (fun _ => rfl) (startStep_kept _ s) (startStep_conditionKept _ s)
        (runOf_start hc hu ▸ h)
    | line hm => cases hm
    | stop hc | send hc | recv hc => exact hc.elim
  · cases hp with
    | stop hc =>
      obtain rfl := hc
      exact resume_conditionStep (fun _ => rfl) (stopStep_kept _ s) (stopStep_conditionKept _ s)
        (runOf_stop (i := .stop) rfl hu ▸ h)
    | line hm => cases hm
    | start hc | send hc | recv hc => exact hc.elim

/-- The accept of START or STOP: it is always legal (R27, R72). -/
theorem exec_condition_idle {i : Instr} {s : State} (hi : i = .start ∨ i = .stop)
    (hb : s.busy = false) : ∃ u, exec i s = .next (accepted i u s) := by
  rcases hi with rfl | rfl
  · exact ⟨.start .s1, exec_idle hb rfl⟩
  · exact ⟨.stop .success (stopEntry s.cfg), exec_idle hb rfl⟩

/-- Settles O49: the accept changes CMDR, ERR, BUSY and UPC only; a running START or STOP keeps
`ConditionStep`. -/
theorem conditionFrame : Obligations.ConditionFrame := by
  intro s t i hi h
  cases hb : s.busy with
  | true =>
    have f := runOf_conditionStep hi (exec_busy hb ▸ h)
    exact ⟨f.cfg, f.acc, f.data, f.bitcnt, f.idx, f.nwritten, f.nread, f.ack, f.lvl, f.host, f.epoch,
      readByte_congr f.mem f.epoch, fun _ => ⟨f.cmdr, f.err⟩, nofun⟩
  | false =>
    obtain ⟨u, ha⟩ := exec_condition_idle hi hb
    obtain rfl : accepted i u s = t := Host.Outcome.next.inj (ha.symm.trans h)
    exact ⟨rfl, rfl, rfl, rfl, rfl, rfl, rfl, rfl, rfl, rfl, rfl, fun _ => rfl,
      nofun, fun _ => ⟨rfl, rfl, rfl⟩⟩

end Sys2Proof.Machine
end

section
/-! SUPPORT. The Byte Transceiver: each micro-op of `send_byte` and `receive_byte` in every command that
calls them (O27, O29), SEND_BYTE and RECEIVE_BYTE from accept to end (O28, O30), and their frame (O50). -/

namespace Sys2Proof.Machine

open Sys2Proof.Claims

/-! ### The micro-ops of `send_byte` and `receive_byte` -/

theorem ackOf_eq_decide (v : Level) : ackOf v = decide (v = .low) := by
  cases v <;> rfl

/-- Settles O27, by the place in `send_byte`: B1 drives SDA by the bit, B5 leads on by BITCNT, A3 to the
outcomes of `afterOnePoll`, and A4's answer decides ACK. -/
theorem sendByteMicroOps : Obligations.SendByteMicroOps := by
  intro i site b s hc hb
  have hplace := fun p => exec_send (b := b) hc s p hb
  refine ⟨fun hu => ?_, hplace .b2, hplace .b3, hplace .b4, fun hu hn => ?_, fun hu h0 => ?_,
    hplace .a1, hplace .a2, fun hu => ?_, fun hu => ?_, ?_⟩
  · rw [hplace .b1 hu]
    simp only [sendStep, SendPos.microOp, perform_dataBitOp]
    rfl
  · rw [hplace .b5 hu]
    exact congrArg (resume · _ _) (nextSendBit_more (s := s.setOut .scl .drivenLow) hn)
  · rw [hplace .b5 hu]
    exact congrArg (resume · _ _) (nextSendBit_last (s := s.setOut .scl .drivenLow) h0)
  · exact (hplace .a3 hu).trans (resume_afterPoll ((poll_upc .sclHigh s).trans hu) rfl)
  · rw [hplace .a4 hu, ← ackOf_eq_decide]
    rfl
  · rintro ack hu rfl rfl
    exact hplace (.a5 ack) hu

/-- Settles O29, by the place in `receive_byte`: C3 shifts the sample into ACC, and C5 leads on by BITCNT. -/
theorem receiveByteMicroOps : Obligations.ReceiveByteMicroOps := by
  intro i a s hc hb
  have hplace := fun p => exec_recv (a := a) hc s p hb
  refine ⟨hplace .c0, hplace .c1, hplace .c2, fun hu => ?_, hplace .c4, fun hu hn => ?_,
    fun hu h0 => ?_, hplace .k1, hplace .k2, hplace .k3, hplace .k4, hplace .k5, hplace .k6, ?_⟩
  · rw [hplace .c3 hu]
    simp only [recvStep, RecvPos.microOp, perform_sample, shiftIn, levelBit_eq_decide,
      decide_eq_true_eq, sample_acc]
    rfl
  · rw [hplace .c5 hu]
    exact congrArg (resume · _ _) (nextRecvBit_more hn a)
  · rw [hplace .c5 hu]
    exact congrArg (resume · _ _) (nextRecvBit_last h0 a)
  · rintro hu rfl
    exact hplace .k7 hu

/-! ### SEND_BYTE and RECEIVE_BYTE from accept to end -/

/-- Settles O28: the accept, then `send_byte` with the ninth pulse stretched, which SEND_BYTE ends
(R120, R121). -/
theorem sendByteCompletes : Obligations.SendByteCompletes := by
  intro s b n v c d hb hn hc hd
  have run := send_runs (s := { accepted (.sendByte b) (.send .operand b .b1) s with bitcnt := 7 })
    (exec_send (i := .sendByte b) rfl) rfl rfl rfl hc hd hn
  refine ⟨exec_idle hb rfl, ?_, ?_⟩
  · rw [← ackOf_eq_decide]
    exact run.1
  · rw [execTrace_sendByte b hb hn hc hd]
    simp only [dataBitEvents, ackEvents, List.append_assoc]

/-- Settles O30: the accept, then `receive_byte`, which RECEIVE_BYTE ends (R125, R127). -/
theorem receiveByteCompletes : Obligations.ReceiveByteCompletes := by
  intro s a b d hb hd
  have run := recv_runs (s := accepted (.receiveByte a) (.recv a .c0) s)
    (exec_recv (i := .receiveByte a) trivial) rfl rfl hd
  rw [blockRecv_length] at run
  exact ⟨exec_idle hb rfl, run.1, execTrace_receiveByte hb hd⟩

/-! ### The frame of SEND_BYTE and RECEIVE_BYTE -/

/-- What no micro-op of `send_byte` touches: it works on BITCNT, WAITCNT and ACK (R120). -/
structure SendKept (s t : State) : Prop extends Kept s t where
  acc : t.acc = s.acc
  data : t.data = s.data
  host : t.host = s.host

/-- What no micro-op of `receive_byte` touches: it works on ACC, BITCNT and DATA, and waits for no line
(R125). -/
structure RecvKept (s t : State) : Prop extends Kept s t where
  ack : t.ack = s.ack
  waitcnt : t.waitcnt = s.waitcnt
  sclIn : t.sclIn = s.sclIn
  host : t.host = s.host

theorem perform_sendKept (m : MicroOp) (s : State) : SendKept s (perform m s).2 :=
  { perform_kept m s with acc := perform_acc m s, data := perform_data m s, host := perform_host m s }

theorem sendStep_sendKept (b : Byte) (p : SendPos) (s : State) : SendKept s (sendStep b p s).1 := by
  cases p with
  | b5 =>
    have h : SendKept s (perform (.driveLow .scl) s).2 := perform_sendKept _ s
    simp only [sendStep, nextSendBit]
    split
    · exact h
    · exact { h with }
  | a2 => exact { perform_sendKept (.release .scl) s with }
  | a3 => simpa [sendStep] using perform_sendKept _ s
  | a4 => exact { perform_sendKept (.sample .sda) s with }
  | b1 | b2 | b3 | b4 | a1 | a5 ack => exact perform_sendKept _ s

/-- A sample uses up answers of its own line only (R93, log 3). -/
theorem sample_sda_sclIn (s : State) : (sample .sda s).2.sclIn = s.sclIn := by
  cases ho : s.out .sda with
  | drivenLow => rw [sample_driven ho]
  | released =>
    cases ha : s.answers .sda with
    | nil => rw [sample_free ho ha]
    | cons v vs => rw [sample_script ho ha]; rfl

theorem perform_recvKept (p : RecvPos) (s : State) : RecvKept s (perform p.microOp s).2 := by
  have k := perform_kept p.microOp s
  have host := perform_host p.microOp s
  have ack := perform_ack p.microOp s
  cases p with
  | c3 => exact { k with ack, host, waitcnt := sample_waitcnt .sda s, sclIn := sample_sda_sclIn s }
  | c0 | c1 | c2 | c4 | c5 | k1 | k2 | k3 | k4 | k5 | k6 | k7 =>
    exact { k with ack, host, waitcnt := rfl, sclIn := rfl }

theorem recvStep_recvKept (a : Bool) (p : RecvPos) (s : State) : RecvKept s (recvStep a p s).1 := by
  have h := perform_recvKept p s
  cases p with
  | c5 =>
    simp only [recvStep, nextRecvBit]
    split
    · exact h
    · exact { h with }
  | c0 | c3 | k7 => exact { h with }
  | c1 | c2 | c4 | k1 | k2 | k3 | k4 | k5 | k6 => exact h

/-- `receive_byte` has no wait, so it never meets the bound (R97, R125). -/
theorem recvStep_ne_stuck (a : Bool) (p : RecvPos) (s : State) : (recvStep a p s).2 ≠ .stuck := by
  cases p with
  | c5 =>
    simp only [recvStep, nextRecvBit]
    split <;> nofun
  | c0 | c1 | c2 | c3 | c4 | k1 | k2 | k3 | k4 | k5 | k6 | k7 => nofun

/-- An operation followed by the normal end alone: the caller's part writes BUSY and UPC, or raises
BUS_STUCK (R25, R176). -/
theorem resume_endOk_cases {π ρ : Type} {r : State × Flow π ρ} {place : π → Upc}
    {K : ρ → State → Host.Outcome State Fault Refusal} {t : State}
    (hK : ∀ x, K x r.1 = .next (endOk r.1)) (h : resume r place K = .next t) :
    (∃ b u, t = { r.1 with busy := b, upc := u }) ∨ (r.2 = .stuck ∧ t = raise .busStuck r.1) := by
  rcases resume_cases h with ⟨p, -, rfl⟩ | ⟨x, -, hx⟩ | hs
  · exact .inl ⟨r.1.busy, place p, rfl⟩
  · exact .inl ⟨false, .idle, (Host.Outcome.next.inj ((hK x).symm.trans hx)).symm⟩
  · exact .inr hs

/-- What every step of SEND_BYTE and RECEIVE_BYTE leaves alone, and what their accept does (R27, R121,
R127). -/
structure TransceiverKept (s t : State) : Prop where
  cfg : t.cfg = s.cfg
  idx : t.idx = s.idx
  nwritten : t.nwritten = s.nwritten
  nread : t.nread = s.nread
  lvl : t.lvl = s.lvl
  host : t.host = s.host
  epoch : t.epoch = s.epoch
  mem : t.mem = s.mem
  cmdr : s.busy = true → t.cmdr = s.cmdr
  accept : s.busy = false →
    t.outScl = s.outScl ∧ t.outSda = s.outSda ∧ t.ack = s.ack ∧ t.data = s.data

theorem transceiverKept_accepted {s : State} (hb : s.busy = false) (i : Instr) (u : Upc)
    (n : BitVec 4) : TransceiverKept s { accepted i u s with bitcnt := n } := by
  constructor <;> simp [accepted, hb]

/-- The frame of one step of SEND_BYTE (R121, R176). -/
structure SendByteFrame (s t : State) : Prop extends TransceiverKept s t where
  data : t.data = s.data
  acc : t.acc = s.acc
  err : s.busy = true → t.err = s.err ∨ t.err = .busStuck

/-- The frame of one step of RECEIVE_BYTE (R127). -/
structure ReceiveByteFrame (s t : State) : Prop extends TransceiverKept s t where
  ack : t.ack = s.ack
  waitcnt : t.waitcnt = s.waitcnt
  sclIn : t.sclIn = s.sclIn
  err : s.busy = true → t.err = s.err

/-- A running SEND_BYTE stands in its `send_byte` (R121). -/
theorem runOf_sendByte_cases {b : Byte} {s t : State} (h : runOf (.sendByte b) s = .next t) :
    ∃ c p busy u err, (err = s.err ∨ err = .busStuck) ∧
      t = { (sendStep c p s).1 with busy, upc := u, err } := by
  have hp := runOf_hasPlace h
  generalize hu : s.upc = u at hp
  cases hp with
  | @send site c p hc =>
    rw [runOf_send hc hu] at h
    rcases resume_endOk_cases (fun _ => rfl) h with ⟨busy, u, rfl⟩ | ⟨-, rfl⟩
    · exact ⟨c, p, busy, u, _, .inl (sendStep_kept c p s).err, rfl⟩
    · exact ⟨c, p, false, .idle, .busStuck, .inr rfl, rfl⟩
  | line hm => cases hm
  | start hc | stop hc | recv hc => exact hc.elim

/-- A running RECEIVE_BYTE stands in its `receive_byte` (R127). -/
theorem runOf_receiveByte_cases {a : Bool} {s t : State} (h : runOf (.receiveByte a) s = .next t) :
    ∃ c p busy u, t = { (recvStep c p s).1 with busy, upc := u } := by
  have hp := runOf_hasPlace h
  generalize hu : s.upc = u at hp
  cases hp with
  | @recv c p hc =>
    rw [runOf_recv hc hu] at h
    exact ⟨c, p, (resume_endOk_cases (fun _ => rfl) h).resolve_right
      fun hs => recvStep_ne_stuck c p s hs.1⟩
  | line hm => cases hm
  | start hc | stop hc | send hc => exact hc.elim

theorem exec_sendByte_frame {b : Byte} {s t : State} (h : exec (.sendByte b) s = .next t) :
    SendByteFrame s t := by
  cases hb : s.busy with
  | false =>
    obtain rfl := Host.Outcome.next.inj ((exec_idle hb rfl).symm.trans h)
    exact { transceiverKept_accepted hb (.sendByte b) (.send .operand b .b1) 7 with
      data := rfl, acc := rfl, err := fun ht => absurd (hb.symm.trans ht) Bool.false_ne_true }
  | true =>
    obtain ⟨c, p, busy, u, err, he, rfl⟩ := runOf_sendByte_cases (exec_busy hb ▸ h)
    have k := sendStep_sendKept c p s
    exact { k with
      cmdr := fun _ => k.cmdr, err := fun _ => he
      accept := fun hf => absurd (hf.symm.trans hb) Bool.false_ne_true }

theorem exec_receiveByte_frame {a : Bool} {s t : State} (h : exec (.receiveByte a) s = .next t) :
    ReceiveByteFrame s t := by
  cases hb : s.busy with
  | false =>
    obtain rfl := Host.Outcome.next.inj ((exec_idle hb rfl).symm.trans h)
    exact { transceiverKept_accepted hb (.receiveByte a) (.recv a .c0) s.bitcnt with
      ack := rfl, waitcnt := rfl, sclIn := rfl
      err := fun ht => absurd (hb.symm.trans ht) Bool.false_ne_true }
  | true =>
    obtain ⟨c, p, busy, u, rfl⟩ := runOf_receiveByte_cases (exec_busy hb ▸ h)
    have k := recvStep_recvKept c p s
    exact { k with
      cmdr := fun _ => k.cmdr, err := fun _ => k.err
      accept := fun hf => absurd (hf.symm.trans hb) Bool.false_ne_true }

/-- Settles O50, by the command: its own frame gives the clauses that name it, `TransceiverKept` the rest. -/
theorem transceiverFrame : Obligations.TransceiverFrame := by
  rintro s t i (⟨b, rfl⟩ | ⟨a, rfl⟩) h
  · have f := exec_sendByte_frame h
    exact ⟨f.cfg, f.idx, f.nwritten, f.nread, f.lvl, f.host, f.epoch, readByte_congr f.mem f.epoch,
      f.cmdr, fun _ => ⟨f.data, f.acc, f.err⟩, nofun, f.accept⟩
  · have f := exec_receiveByte_frame h
    exact ⟨f.cfg, f.idx, f.nwritten, f.nread, f.lvl, f.host, f.epoch, readByte_congr f.mem f.epoch,
      f.cmdr, nofun, fun _ => ⟨f.ack, f.waitcnt, f.sclIn, f.err⟩, f.accept⟩

end Sys2Proof.Machine
end

section
/-! SUPPORT. The wire observer over `send_byte` and `receive_byte` entered with the clock driven low: it
takes the eight bits of the byte and the bit of the acknowledge, one per pulse (O55, O56). -/

namespace Sys2Proof.Machine

/-! ### The observer's notes -/

/-- The observer over a trace. -/
def Observer.over (o : Observer) (tr : List Event) : Observer := tr.foldl Observer.see o

theorem Observer.over_cons (o : Observer) (e : Event) (tr : List Event) :
    o.over (e :: tr) = (o.see e).over tr := rfl

theorem Observer.over_append (o : Observer) (tr tr' : List Event) :
    o.over (tr ++ tr') = (o.over tr).over tr' :=
  List.foldl_append

/-- The observer before the first event. -/
def Observer.fresh (scl sda : Drive) : Observer :=
  { scl, sda, inPulse := false, edge := false, seen := none, bits := [], symbols := [] }

theorem wire_eq (scl sda : Drive) (tr : List Event) :
    wire scl sda tr = ((Observer.fresh scl sda).over tr).symbols := rfl

/-- Several bits, one after the other. -/
def Observer.takeBits (o : Observer) (xs : List Bool) : Observer :=
  xs.foldl (fun p x => p.takeBit x) o

/-- The two observers have written down the same symbols and collected the same bits. -/
structure SameNotes (o p : Observer) : Prop where
  bits : p.bits = o.bits
  symbols : p.symbols = o.symbols

theorem SameNotes.trans {o p q : Observer} (h : SameNotes o p) (k : SameNotes p q) : SameNotes o q :=
  ⟨k.bits.trans h.bits, k.symbols.trans h.symbols⟩

/-- A bit is added to the notes alone. -/
theorem SameNotes.takeBit {o p : Observer} (h : SameNotes o p) (x : Bool) :
    SameNotes (o.takeBit x) (p.takeBit x) := by
  unfold Observer.takeBit
  rw [h.bits, h.symbols]
  split_ifs <;> exact ⟨rfl, rfl⟩

theorem SameNotes.takeBits {o p : Observer} (h : SameNotes o p) (xs : List Bool) :
    SameNotes (o.takeBits xs) (p.takeBits xs) := by
  induction xs generalizing o p with
  | nil => exact h
  | cons x xs ih => exact ih (h.takeBit x)

/-! ### Pulses -/

/-- From `o`, which finds the clock driven low, the bits `xs` have been taken and the clock is driven low
again, the data line as `sda`. -/
structure Took (xs : List Bool) (sda : Drive) (o p : Observer) : Prop where
  scl : p.scl = .drivenLow
  sda : p.sda = sda
  notes : SameNotes (o.takeBits xs) p

theorem Took.append {xs ys : List Bool} {d e : Drive} {o p q : Observer} (h : Took xs d o p)
    (k : Took ys e p q) : Took (xs ++ ys) e o q where
  scl := k.scl
  sda := k.sda
  notes := by
    have hn : SameNotes (o.takeBits (xs ++ ys)) (p.takeBits ys) := by
      simpa [Observer.takeBits] using h.notes.takeBits ys
    exact hn.trans k.notes

theorem Observer.see_sda {o : Observer} (hs : o.scl = .drivenLow) (x : Bool) :
    o.see (if x then .rel .sda else .low .sda) = { o with sda := if x then .released else .drivenLow } := by
  cases x <;> simp [Observer.see, hs]

/-- An edge of the data line under a low clock is no condition (R124). -/
theorem took_sda {o : Observer} (hs : o.scl = .drivenLow) (x : Bool) :
    Took [] (if x then .released else .drivenLow) o (o.see (if x then .rel .sda else .low .sda)) := by
  rw [Observer.see_sda hs]
  exact ⟨hs, rfl, rfl, rfl⟩

/-- The observer with the clock released and no edge since, the data line last sampled as `seen`. -/
def Observer.inside (o : Observer) (seen : Option Level) : Observer :=
  { o with scl := .released, inPulse := true, edge := false, seen }

theorem Observer.see_rel_scl {o : Observer} (hs : o.scl = .drivenLow) :
    o.see (.rel .scl) = o.inside none := if_pos hs

theorem Observer.takeBit_sda (o : Observer) (x : Bool) : (o.takeBit x).sda = o.sda := by
  unfold Observer.takeBit
  split_ifs <;> rfl

/-- A pulse closes: one bit. -/
theorem took_low_scl (o : Observer) (seen : Option Level) :
    Took [(o.inside seen).pulseBit] o.sda o ((o.inside seen).see (.low .scl)) where
  scl := rfl
  sda := (o.inside seen).takeBit_sda _
  notes := by
    obtain ⟨hb, hy⟩ := (⟨rfl, rfl⟩ : SameNotes o (o.inside seen)).takeBit (o.inside seen).pulseBit
    exact ⟨hb, hy⟩

/-- A whole pulse: what stands between its two edges of the clock leaves the data line alone. -/
theorem took_pulse {o : Observer} (hs : o.scl = .drivenLow) {mid : List Event} {seen : Option Level}
    (hm : (o.inside none).over mid = o.inside seen) :
    Took [(o.inside seen).pulseBit] o.sda o (o.over (.rel .scl :: mid ++ [.low .scl])) := by
  rw [List.cons_append, Observer.over_cons, Observer.see_rel_scl hs, Observer.over_append, hm]
  exact took_low_scl o seen

/-- The bit of a released line is the level sampled, or 1 where none was (95 section 1). -/
theorem pulseBit_of_released {o : Observer} (hd : o.sda = .released) (seen : Option Level) :
    (o.inside seen).pulseBit = (seen.map levelBit).getD true := by
  cases seen <;> simp [Observer.pulseBit, Observer.inside, hd]

/-- A line the engine drives carries 0. -/
theorem pulseBit_of_drivenLow {o : Observer} (hd : o.sda = .drivenLow) (seen : Option Level) :
    (o.inside seen).pulseBit = false := if_pos hd

/-- A bit the engine puts on the data line itself, the clock pulsed with one hold. -/
theorem took_driven_bit {o : Observer} {x : Bool} (hs : o.scl = .drivenLow)
    (hd : o.sda = if x then .released else .drivenLow) :
    Took [x] o.sda o (o.over [.rel .scl, .hold, .low .scl]) := by
  have h := took_pulse (mid := [.hold]) hs rfl
  cases x with
  | false => rwa [pulseBit_of_drivenLow hd] at h
  | true => rwa [pulseBit_of_released hd] at h

/-- One data bit of `send_byte` (R120, R124). -/
theorem took_blockBit {o : Observer} (hs : o.scl = .drivenLow) (x : Bool) :
    Took [x] (if x then .released else .drivenLow) o (o.over (blockBit x)) := by
  have h := took_sda hs x
  have k := took_driven_bit h.scl h.sda
  rw [h.sda] at k
  exact h.append k

/-- Polls of the clock tell the observer nothing. -/
theorem Observer.over_polls (o : Observer) (n : Nat) (v : Level) :
    o.over (List.replicate n (.smp .scl v)) = o := by
  induction n with
  | zero => rfl
  | succ n ih => exact ih

/-- The acknowledge phase of `send_byte`, its clock stretched for `n` polls: the slave's answer (R120). -/
theorem took_ackEvents {o : Observer} (hs : o.scl = .drivenLow) (n : Nat) (v : Level) :
    Took [levelBit v] .released o (o.over (ackEvents n v)) := by
  have h : Took [] .released o (o.see (.rel .sda)) := took_sda hs true
  have hm : ((o.see (.rel .sda)).inside none).over
      (List.replicate n (.smp .scl .low) ++ [.smp .scl .high, .smp .sda v])
        = (o.see (.rel .sda)).inside (some v) := by
    rw [Observer.over_append, Observer.over_polls]
    rfl
  have k := took_pulse h.scl hm
  rw [pulseBit_of_released h.sda, h.sda] at k
  have htr : ackEvents n v = .rel .sda :: (.rel .scl :: (List.replicate n (.smp .scl .low) ++
      [.smp .scl .high, .smp .sda v]) ++ [.low .scl]) := by
    simp [ackEvents]
  rw [htr]
  exact h.append k

theorem levelBit_levelOf (x : Bool) : levelBit (levelOf x) = x := by
  cases x <;> rfl

/-- One bit of `receive_byte`, the data line released: the bit presented (R125, R126). -/
theorem took_blockRecvBit {o : Observer} (hs : o.scl = .drivenLow) (hd : o.sda = .released) (x : Bool) :
    Took [x] .released o (o.over (blockRecvBit (levelOf x))) := by
  have h := took_pulse (mid := [.hold, .smp .sda (levelOf x)]) (seen := some (levelOf x)) hs rfl
  rwa [pulseBit_of_released hd, hd, Option.map_some, Option.getD_some, levelBit_levelOf] at h

/-- The acknowledge phase of `receive_byte`, entered with the data line released: the engine's own bit
(R125, R129). -/
theorem took_blockRecvAck {o : Observer} (hs : o.scl = .drivenLow) (hd : o.sda = .released) (a : Bool) :
    Took [!a] .released o (o.over (blockRecvAck a)) := by
  cases a with
  | true =>
    have h := took_sda hs false
    have k := took_driven_bit (x := false) h.scl h.sda
    exact (h.append k).append (took_sda k.scl true)
  | false =>
    have k := took_driven_bit (x := true) hs hd
    exact k.append (took_sda k.scl true)

/-! ### Bytes -/

/-- The bits of a byte in the order of the wire, bit 7 first (R53). -/
def byteBits (b : Byte) : List Bool :=
  [b.getLsbD 7, b.getLsbD 6, b.getLsbD 5, b.getLsbD 4, b.getLsbD 3, b.getLsbD 2, b.getLsbD 1,
    b.getLsbD 0]

theorem byteLevels_eq (b : Byte) : byteLevels b = (byteBits b).map levelOf := rfl

theorem dataBitEvents_eq (b : Byte) : dataBitEvents b = (byteBits b).flatMap blockBit := by
  simp [dataBitEvents, byteBits]

/-- The observer assembles the bits as the engine does (R126). -/
theorem byteOfBits_eq_shiftAll (xs : List Bool) : byteOfBits xs = shiftAll 0 (xs.map levelOf) := by
  rw [byteOfBits, shiftAll, List.foldl_map]
  congr 1
  funext a x
  cases x <;> rfl

theorem byteOfBits_byteBits (b : Byte) : byteOfBits (byteBits b) = b :=
  (byteOfBits_eq_shiftAll _).trans (shiftAll_byteLevels 0 b)

/-- Eight bits and a ninth between bytes: the byte and its acknowledge (95 section 1). -/
theorem takeBits_byte {o : Observer} (ho : o.bits = []) (b : Byte) (x : Bool) :
    (o.takeBits (byteBits b ++ [x])).bits = [] ∧
      (o.takeBits (byteBits b ++ [x])).symbols = o.symbols ++ [.byte b, if x then .nak else .ack] := by
  simpa [Observer.takeBits, Observer.takeBit, byteBits, ho] using byteOfBits_byteBits b

theorem Took.byte {o p : Observer} {b : Byte} {x : Bool} {d : Drive}
    (h : Took (byteBits b ++ [x]) d o p) (ho : o.bits = []) :
    p.bits = [] ∧ p.symbols = o.symbols ++ [.byte b, if x then .nak else .ack] := by
  rw [h.notes.bits, h.notes.symbols]
  exact takeBits_byte ho b x

/-- A block of events per bit, each entered and left with the data line as `P` asks. -/
theorem took_flatMap {P : Drive → Prop} {f : Bool → List Event}
    (hf : ∀ (o : Observer) (x : Bool), o.scl = .drivenLow → P o.sda →
      ∃ d, P d ∧ Took [x] d o (o.over (f x)))
    {o : Observer} (hs : o.scl = .drivenLow) (hd : P o.sda) (xs : List Bool) :
    ∃ d, P d ∧ Took xs d o (o.over (xs.flatMap f)) := by
  induction xs generalizing o with
  | nil => exact ⟨o.sda, hd, hs, rfl, rfl, rfl⟩
  | cons x xs ih =>
    obtain ⟨d, hp, h⟩ := hf o x hs hd
    obtain ⟨e, he, k⟩ := ih h.scl (h.sda ▸ hp)
    rw [List.flatMap_cons, Observer.over_append]
    exact ⟨e, he, h.append k⟩

/-- `send_byte(b)`: the byte and the slave's answer (R120, R124). -/
theorem took_sendByte {o : Observer} (hs : o.scl = .drivenLow) (b : Byte) (n : Nat) (v : Level) :
    Took (byteBits b ++ [levelBit v]) .released o (o.over (dataBitEvents b ++ ackEvents n v)) := by
  obtain ⟨d, -, h⟩ := took_flatMap (P := fun _ => True)
    (fun o x hs _ => ⟨_, trivial, took_blockBit hs x⟩) hs trivial (byteBits b)
  rw [dataBitEvents_eq, Observer.over_append]
  exact h.append (took_ackEvents h.scl n v)

/-- `receive_byte(a)`: the byte presented and the engine's acknowledge (R125, R129). -/
theorem took_receiveByte {o : Observer} (hs : o.scl = .drivenLow) (b : Byte) (a : Bool) :
    Took (byteBits b ++ [!a]) .released o (o.over (blockRecv b a)) := by
  have h0 := took_sda hs true
  obtain ⟨d, rfl, h⟩ := took_flatMap (P := (· = .released)) (f := fun x => blockRecvBit (levelOf x))
    (fun o x hs hd => ⟨_, rfl, took_blockRecvBit hs hd x⟩)
    h0.scl h0.sda (byteBits b)
  rw [blockRecv, byteLevels_eq, List.flatMap_map, Observer.over_cons, Observer.over_append]
  exact (h0.append h).append (took_blockRecvAck h.scl h.sda a)

/-! ### The wire of SEND_BYTE and RECEIVE_BYTE -/

/-- Settles O55: the trace of SEND_BYTE is that of `send_byte`, over which the observer takes the byte's
bits and the answer. -/
theorem wireShowsSentByte : Obligations.WireShowsSentByte := by
  intro s b n v c d hb hs hn hc hd
  rw [execTrace_sendByte b hb hn hc hd, wire_eq, ((took_sendByte hs b n v).byte rfl).2]
  cases v <;> rfl

/-- Settles O56: the trace of RECEIVE_BYTE is that of `receive_byte`, over which the observer takes the bits
presented and the engine's own. -/
theorem wireShowsReceivedByte : Obligations.WireShowsReceivedByte := by
  intro s a b d hb hs hd
  rw [execTrace_receiveByte hb hd, wire_eq, ((took_receiveByte hs b a).byte rfl).2]
  cases a <;> rfl

end Sys2Proof.Machine
end

section
/-! SUPPORT. The Transaction Sequencer step by step: the address byte (O54), a transfer of no byte (O31),
what follows each operation a WRITE or READ calls (O32, O36), and the frames of WRITE and READ (O51,
O52). -/

namespace Sys2Proof.Machine

open Sys2Proof.Claims Sys2Proof.Safety

/-! ### The address byte (R140) -/

/-- Shifted left, the address still fits a byte, so nothing of it is lost (R140). -/
theorem addrByte_eq_append (a : BitVec 7) (isRead : Bool) :
    addrByte a isRead = a ++ BitVec.ofBool isRead := by
  have hfit : a.toNat * 2 % 256 = a.toNat * 2 := Nat.mod_eq_of_lt (by omega)
  apply BitVec.eq_of_toNat_eq
  rw [BitVec.toNat_append]
  cases isRead <;> simp [addrByte, directionBit, Nat.shiftLeft_eq, hfit]

theorem toNat_addrByte (a : BitVec 7) (isRead : Bool) :
    (addrByte a isRead).toNat = 2 * a.toNat + isRead.toNat := by
  have hr : isRead.toNat < 2 ^ 1 := Bool.toNat_lt isRead
  rw [addrByte_eq_append, BitVec.toNat_append, BitVec.toNat_ofBool,
    ← Nat.shiftLeft_add_eq_or_of_lt hr, Nat.shiftLeft_eq]
  omega

/-- Settles O54: the general clauses by the address bits and the direction bit, the examples by
evaluation. -/
theorem addressByte : Obligations.AddressByte := by
  intro a isRead
  exact ⟨addrByte_eq_append a isRead, rfl, toNat_addrByte a isRead, by decide⟩

/-! ### The accept of WRITE and READ (R27, R143) -/

section Accept

variable {s : State} {address : BitVec 7} {n : Byte} {nostop : Bool}

theorem exec_write_idle (hb : s.busy = false) (hn : n.toNat ≤ s.cfg.bufCap) :
    exec (.write address n) s = .next { s with
      cmdr := encode (.write address n), err := .ok, nwritten := 0, busy := decide (n ≠ 0),
      upc := if n = 0 then .idle else .start .s1 } :=
  (exec_idle (i := .write address n) hb (decide_eq_true hn)).trans (congrArg _ (enterWrite_eq rfl))

theorem exec_read_idle (hb : s.busy = false) (hn : n.toNat ≤ s.cfg.bufCap) :
    exec (.read address n nostop) s = .next { s with
      cmdr := encode (.read address n nostop), err := .ok, nread := 0, busy := decide (n ≠ 0),
      upc := if n = 0 then .idle else .start .s1 } :=
  (exec_idle (i := .read address n nostop) hb (decide_eq_true hn)).trans
    (congrArg _ (enterRead_eq rfl))

/-- One step from an idle engine is an accept and leaves no event (R12, R27). -/
theorem execTrace_accept {i : Instr} {t : State} (hb : s.busy = false) (h : exec i s = .next t) :
    execTrace i 1 s = [] := by
  simp [execTrace, execEvents, hb, h]

end Accept

/-- Settles O31: with no byte to move the accept leaves UPC IDLE (R143). -/
theorem zeroLengthIsANoOp : Obligations.ZeroLengthIsANoOp := by
  intro s address nostop hb
  have hw := exec_write_idle (address := address) (n := 0) hb (Nat.zero_le _)
  have hr := exec_read_idle (address := address) (n := 0) (nostop := nostop) hb (Nat.zero_le _)
  exact ⟨hw, hr, execTrace_accept hb hw, execTrace_accept hb hr⟩

/-! ### What follows an operation, by its result (R141, R145) -/

section After

variable {s : State} {n c : Byte}

theorem enterDataByte_of_lt {k : Byte} (h : k.toNat < s.cfg.bufCap) :
    enterDataByte k s
      = .next (enterSend .data (readByte s (txBase + k.toNat)) { s with idx := k }) := by
  simp [enterDataByte, txByte, h]

/-- The first data byte, after the address (R141). -/
theorem writeAfterAddress_ack (h : 0 < s.cfg.bufCap) :
    writeAfterAddress true s
      = .next (enterSend .data (readByte s txBase) { s with idx := 0 }) :=
  enterDataByte_of_lt (k := 0) h

/-- The byte after an acknowledged one that is not the last (R63, R141). -/
theorem writeAfterData_more (hn : s.idx.toNat + 1 < n.toNat) (hcap : s.idx.toNat + 1 < s.cfg.bufCap) :
    writeAfterData n true s
      = .next (enterSend .data (readByte s (txBase + (s.idx.toNat + 1)))
          { s with nwritten := s.idx + 1, idx := s.idx + 1 }) := by
  have hm := (moreAfter_iff s.idx n).2 hn
  have hk := succ_toNat_of_more hm
  have h := enterDataByte_of_lt (s := { s with nwritten := s.idx + 1 }) (hk ▸ hcap)
  rw [hk] at h
  simp only [writeAfterData, hm, if_true]
  exact h

theorem moreAfter_of_last {k : Byte} (h : n.toNat ≤ k.toNat + 1) : moreAfter k n = false :=
  decide_eq_false (Nat.not_lt.2 h)

theorem writeAfterData_last (hn : n.toNat ≤ s.idx.toNat + 1) :
    writeAfterData n true s = .next (enterStop .success { s with nwritten := s.idx + 1 }) := by
  simp [writeAfterData, moreAfter_of_last hn]

/-- The byte of a READ after one that is not the last (R145). -/
theorem readAfterByte_more {nostop : Bool} (hcap : s.idx.toNat < s.cfg.bufCap)
    (hc : s.idx.toNat + 1 < c.toNat) (v : Byte) :
    readAfterByte c nostop v s = .next (enterReadByte (s.idx + 1) c (storedRead v s)) := by
  simp only [readAfterByte, rxStore_of_lt hcap, writeByte_idx, (moreAfter_iff s.idx c).2 hc, if_true]
  rfl

/-- The end of a READ after its last byte: `stop()`, or with NOSTOP the command's end (R145, R148). -/
theorem readAfterByte_last {nostop : Bool} (hcap : s.idx.toNat < s.cfg.bufCap)
    (hc : c.toNat ≤ s.idx.toNat + 1) (v : Byte) :
    readAfterByte c nostop v s
      = if nostop then .next (endOk (storedRead v s))
        else .next (enterStop .success (storedRead v s)) := by
  simp only [readAfterByte, rxStore_of_lt hcap, writeByte_idx, moreAfter_of_last hc,
    Bool.false_eq_true, if_false]
  rfl

end After

/-- Settles O32, by the last micro-op of each operation and what WRITE does with its result. -/
theorem writeSequence : Obligations.WriteSequence := by
  intro s address n hb
  have haddr := fun b ack =>
    exec_send (i := .write address n) (site := .address) (b := b) nofun s (.a5 ack) hb
  have hdata := fun b ack =>
    exec_send (i := .write address n) (site := .data) (b := b) nofun s (.a5 ack) hb
  refine ⟨fun hu => ?_, fun b hu hcap => ?_, fun b hu => haddr b false hu, fun b hu hn hcap => ?_,
    fun b hu hn => ?_, fun b hu => hdata b false hu⟩
  · rw [exec_start (i := .write address n) trivial s .s7 hb hu,
      ← BitVec.or_zero (x := address.setWidth 8 <<< 1)]
    rfl
  · exact (haddr b true hu).trans
      (writeAfterAddress_ack (s := { s with outScl := .drivenLow }) hcap)
  · exact (hdata b true hu).trans
      (writeAfterData_more (s := { s with outScl := .drivenLow }) hn hcap)
  · exact (hdata b true hu).trans (writeAfterData_last (s := { s with outScl := .drivenLow }) hn)

/-- Settles O36, by the last micro-op of each operation and what READ does with its result. -/
theorem readSequence : Obligations.ReadSequence := by
  intro s address c nostop hb
  have haddr := fun b ack =>
    exec_send (i := .read address c nostop) (site := .address) (b := b) rfl s (.a5 ack) hb
  have hbyte := fun a =>
    exec_recv (i := .read address c nostop) (a := a) trivial s .k7 hb
  refine ⟨exec_start (i := .read address c nostop) trivial s .s7 hb, fun b hu => haddr b true hu,
    fun b hu => haddr b false hu, fun a hu hcap hc => ?_, fun a hu hcap hc => ?_⟩
  · have hack : ackAfter (s.idx + 1).toNat c = decide (s.idx.toNat + 2 < c.toNat) := by
      rw [succ_toNat_of_more ((moreAfter_iff s.idx c).2 hc), ackAfter]
    rw [← hack]
    exact (hbyte a hu).trans
      (readAfterByte_more (s := { s with outSda := .released, data := s.acc }) hcap hc s.acc)
  · exact (hbyte a hu).trans
      (readAfterByte_last (s := { s with outSda := .released, data := s.acc }) hcap hc s.acc)

/-! ### The frame of WRITE -/

theorem afterPoll_ne_done {π ρ : Type} (v : Level) (s : State) (again p : π) (x : ρ) :
    (afterPoll v s again (.go p)).2 ≠ .done x := by
  rcases afterPoll_cases v s again (.go p) with ⟨-, h⟩ | ⟨-, -, h⟩ | ⟨-, -, h⟩ <;>
    rw [h] <;> nofun

/-- A5 alone ends `send_byte`, with the acknowledge it carries (R120). -/
theorem sendStep_done {b : Byte} {p : SendPos} {s : State} {ack : Bool}
    (h : (sendStep b p s).2 = .done ack) : p = .a5 ack := by
  cases p with
  | a5 a => cases h; rfl
  | b5 =>
    simp only [sendStep, nextSendBit] at h
    split at h <;> cases h
  | a3 => exact absurd h (afterPoll_ne_done _ _ _ _ _)
  | b1 | b2 | b3 | b4 | a1 | a2 | a4 => cases h

theorem startStep_sendKept (p : StartPos) (s : State) : SendKept s (startStep p s).1 :=
  have f := startStep_conditionKept p s
  { startStep_kept p s with acc := f.acc, data := f.data, host := f.host }

theorem stopStep_sendKept (p : StopPos) (s : State) : SendKept s (stopStep p s).1 :=
  have f := stopStep_conditionKept p s
  { stopStep_kept p s with acc := f.acc, data := f.data, host := f.host }

section Frames

variable {s r t : State} {address : BitVec 7} {n : Byte} {nostop : Bool}

/-- The frame of one step of a running WRITE: NWRITTEN changes only at an acknowledged data byte, ERR only to
the errors of WRITE (R141, R144, R176). -/
structure WriteStep (s t : State) : Prop where
  cfg : t.cfg = s.cfg
  acc : t.acc = s.acc
  data : t.data = s.data
  nread : t.nread = s.nread
  lvl : t.lvl = s.lvl
  host : t.host = s.host
  epoch : t.epoch = s.epoch
  mem : t.mem = s.mem
  cmdr : t.cmdr = s.cmdr
  err : t.err = s.err ∨ t.err = .busStuck ∨ t.err = .noAckAddress ∨ t.err = .noAckData
  nwritten : t.nwritten = s.nwritten ∨
    (∃ b, s.upc = .send .data b (.a5 true)) ∧ t.nwritten = s.idx + 1

theorem SendKept.writeStep (k : SendKept s r) : WriteStep s r :=
  { k with err := .inl k.err, nwritten := .inl k.nwritten }

/-- A WRITE in an operation of its own: it goes on, or raises BUS_STUCK, or does its part after the
operation's result. -/
theorem resume_writeStep {π ρ : Type} {r : State × Flow π ρ} {place : π → Upc}
    {K : ρ → State → Host.Outcome State Fault Refusal} (k : SendKept s r.1)
    (hK : ∀ x, r.2 = .done x → K x r.1 = .next t → WriteStep s t)
    (h : resume r place K = .next t) : WriteStep s t := by
  rcases resume_cases h with ⟨p, -, rfl⟩ | ⟨x, hd, hx⟩ | ⟨-, rfl⟩
  · exact { k.writeStep with }
  · exact hK x hd hx
  · exact { k.writeStep with err := .inr (.inl rfl) }

theorem SendKept.writeStep_conclude (k : SendKept s r) (after : Closing) :
    WriteStep s (conclude after r) := by
  cases after with
  | success => exact { k.writeStep with }
  | nakAddress => exact { k.writeStep with err := .inr (.inr (.inl rfl)) }
  | nakData => exact { k.writeStep with err := .inr (.inr (.inr rfl)) }

/-- An acknowledged data byte is counted (R141, R144). -/
theorem SendKept.writeStep_afterData {b : Byte} {ack : Bool} (k : SendKept s r)
    (hu : s.upc = .send .data b (.a5 ack)) (h : writeAfterData n ack r = .next t) :
    WriteStep s t := by
  have hcount : r.idx + 1 = s.idx + 1 := congrArg (· + 1) k.idx
  rcases writeAfterData_cases h with ⟨rfl, -, rfl⟩ | ⟨rfl, -, rfl⟩ | ⟨-, rfl⟩
  · exact { k.writeStep with nwritten := .inr ⟨⟨b, hu⟩, hcount⟩ }
  · exact { k.writeStep with nwritten := .inr ⟨⟨b, hu⟩, hcount⟩ }
  · exact { k.writeStep with }

/-- One step of a running WRITE, by the operation at UPC. -/
theorem runOf_writeStep (h : runOf (.write address n) s = .next t) : WriteStep s t := by
  have hp := runOf_hasPlace h
  generalize hu : s.upc = u at hp
  cases hp with
  | line hm => cases hm
  | recv hc => exact hc.elim
  | @start p hc =>
    have k := startStep_sendKept p s
    exact resume_writeStep k (fun _ _ hx => by cases hx; exact { k.writeStep with })
      (runOf_start hc hu ▸ h)
  | @stop after p hc =>
    have k := stopStep_sendKept p s
    rw [runOf_stop hc hu] at h
    exact resume_writeStep k (fun _ _ hx => by cases hx; exact k.writeStep_conclude after) h
  | @send site b p hc =>
    have k := sendStep_sendKept b p s
    refine resume_writeStep k (fun ack hd hx => ?_) (runOf_send hc hu ▸ h)
    cases site with
    | operand => exact absurd rfl hc
    | address =>
      rcases writeAfterAddress_cases hx with ⟨-, rfl⟩ | ⟨-, rfl⟩ <;> exact { k.writeStep with }
    | data => exact k.writeStep_afterData (sendStep_done hd ▸ hu) hx

/-- The accept of a WRITE, legal or not, writes these registers only (R27, R72). -/
theorem exec_write_accept (hb : s.busy = false) (h : exec (.write address n) s = .next t) :
    ∃ cmdr err nwritten busy upc, t = { s with cmdr, err, nwritten, busy, upc } := by
  by_cases hn : n.toNat ≤ s.cfg.bufCap
  · exact ⟨_, _, _, _, _, Host.Outcome.next.inj (h.symm.trans (exec_write_idle hb hn))⟩
  · have hi := exec_idle_illegal (i := .write address n) hb (decide_eq_false hn)
    exact ⟨_, _, _, _, _, Host.Outcome.next.inj (h.symm.trans hi)⟩

/-! ### The frame of READ -/

/-- The frame of one step of a running READ, beside `StepFrame`: NREAD changes only at K7, ERR only to the
errors of READ (R145, R176). -/
structure ReadStep (s t : State) : Prop where
  nwritten : t.nwritten = s.nwritten
  lvl : t.lvl = s.lvl
  host : t.host = s.host
  cmdr : t.cmdr = s.cmdr
  err : t.err = s.err ∨ t.err = .busStuck ∨ t.err = .noAckAddress
  nread : t.nread = s.nread ∨ ∃ a, s.upc = .recv a .k7

theorem Kept.readStep (k : Kept s r) (host : r.host = s.host) : ReadStep s r :=
  { k with host, err := .inl k.err, nread := .inl k.nread }

/-- A READ in an operation of its own: it goes on, or raises BUS_STUCK, or does its part after the
operation's result. -/
theorem resume_readStep {π ρ : Type} {r : State × Flow π ρ} {place : π → Upc}
    {K : ρ → State → Host.Outcome State Fault Refusal} (k : ReadStep s r.1)
    (hK : ∀ x, r.2 = .done x → K x r.1 = .next t → ReadStep s t)
    (h : resume r place K = .next t) : ReadStep s t := by
  rcases resume_cases h with ⟨p, -, rfl⟩ | ⟨x, hd, hx⟩ | ⟨-, rfl⟩
  · exact { k with }
  · exact hK x hd hx
  · exact { k with err := .inr (.inl rfl) }

theorem ReadStep.conclude (k : ReadStep s r) {after : Closing} (h : after ≠ .nakData) :
    ReadStep s (conclude after r) := by
  cases after with
  | success => exact { k with }
  | nakAddress => exact { k with err := .inr (.inr rfl) }
  | nakData => exact absurd rfl h

/-- A byte received is stored and counted (R145). -/
theorem ReadStep.afterByte {a : Bool} {v : Byte} (k : ReadStep s r) (hu : s.upc = .recv a .k7)
    (h : readAfterByte n nostop v r = .next t) : ReadStep s t := by
  obtain ⟨-, ⟨-, rfl⟩ | ⟨-, -, rfl⟩ | ⟨-, -, rfl⟩⟩ := readAfterByte_cases h <;>
    exact { k with nread := .inr ⟨a, hu⟩ }

/-- One step of a running READ, by the operation at UPC. -/
theorem runOf_readStep (h : runOf (.read address n nostop) s = .next t) : ReadStep s t := by
  have hp := runOf_hasPlace h
  generalize hu : s.upc = u at hp
  cases hp with
  | line hm => cases hm
  | @start p hc =>
    have k := (startStep_kept p s).readStep (startStep_sendKept p s).host
    exact resume_readStep k (fun _ _ hx => by cases hx; exact { k with }) (runOf_start hc hu ▸ h)
  | @stop after p hc =>
    have k := (stopStep_kept p s).readStep (stopStep_sendKept p s).host
    rw [runOf_stop hc hu] at h
    exact resume_readStep k (fun _ _ hx => by cases hx; exact k.conclude hc) h
  | @send site b p hc =>
    have hsite : site = .address := hc
    subst hsite
    have k := (sendStep_kept b p s).readStep (sendStep_sendKept b p s).host
    refine resume_readStep k (fun ack _ hx => ?_) (runOf_send hc hu ▸ h)
    rcases readAfterAddress_cases hx with ⟨-, rfl⟩ | ⟨-, rfl⟩ <;> exact { k with }
  | @recv a p hc =>
    have k := (recvStep_kept a p s).readStep (recvStep_recvKept a p s).host
    refine resume_readStep k (fun v hv hx => ?_) (runOf_recv hc hu ▸ h)
    exact k.afterByte (recvStep_done hv ▸ hu) hx

/-- The accept of a READ, legal or not, writes these registers only (R27, R72). -/
theorem exec_read_accept (hb : s.busy = false) (h : exec (.read address n nostop) s = .next t) :
    ∃ cmdr err nread busy upc, t = { s with cmdr, err, nread, busy, upc } := by
  by_cases hn : n.toNat ≤ s.cfg.bufCap
  · exact ⟨_, _, _, _, _, Host.Outcome.next.inj (h.symm.trans (exec_read_idle hb hn))⟩
  · have hi := exec_idle_illegal (i := .read address n nostop) hb (decide_eq_false hn)
    exact ⟨_, _, _, _, _, Host.Outcome.next.inj (h.symm.trans hi)⟩

/-- A running command changes at most the byte of memory that K7 of a READ stores (R51, R145). -/
theorem StepFrame.readByte_other {i : Instr} (f : StepFrame i s t) {a : Nat}
    (h : a ≠ rxBase + s.idx.toNat ∨ ∀ k, s.upc ≠ .recv k .k7) : readByte t a = readByte s a := by
  by_cases hm : t.mem = s.mem
  · exact readByte_congr hm f.epoch a
  · obtain ⟨⟨k, hu⟩, -, v, hv⟩ := f.mem hm
    have hne : a ≠ rxBase + s.idx.toNat := h.resolve_right fun hk => hk k hu
    simp only [readByte, hv, f.epoch, Memory.lookup_write_other _ hne]

end Frames

/-- Settles O51: the accept and one step of a running WRITE write no buffer and none of the kept
registers. -/
theorem writeFrame : Obligations.WriteFrame := by
  intro s t address n h
  cases hb : s.busy with
  | false =>
    obtain ⟨cmdr, err, nwritten, busy, upc, rfl⟩ := exec_write_accept hb h
    exact ⟨rfl, rfl, rfl, rfl, rfl, rfl, rfl, fun _ => rfl, nofun, fun _ => ⟨rfl, rfl, rfl, rfl⟩⟩
  | true =>
    have f := runOf_writeStep (exec_busy hb ▸ h)
    exact ⟨f.cfg, f.acc, f.data, f.nread, f.lvl, f.host, f.epoch, readByte_congr f.mem f.epoch,
      fun _ => ⟨f.cmdr, f.err, f.nwritten⟩, nofun⟩

/-- Settles O52: the accept stores nothing; of a running READ, `StepFrame` names the writers of memory and
DATA, `ReadStep` those of the other registers. -/
theorem readFrame : Obligations.ReadFrame := by
  intro s t address c nostop h
  cases hb : s.busy with
  | false =>
    obtain ⟨cmdr, err, nread, busy, upc, rfl⟩ := exec_read_accept hb h
    exact ⟨rfl, rfl, rfl, rfl, rfl, fun _ _ => rfl, nofun, nofun,
      fun _ => ⟨rfl, rfl, rfl, rfl, rfl, rfl⟩⟩
  | true =>
    rw [exec_busy hb] at h
    have f := runOf_frame hb h
    have g := runOf_readStep h
    refine ⟨f.cfg, g.nwritten, g.lvl, g.host, f.epoch, fun a ha => ?_,
      fun _ => ⟨g.cmdr, g.err⟩, fun _ hu => ⟨by_contra fun hd => ?_, ?_⟩, nofun⟩
    · exact f.readByte_other (ha.imp_right fun hk => hk.resolve_left nofun)
    · exact (f.data hd).elim hu
    · exact g.nread.resolve_right fun ⟨a, ha⟩ => hu a ha

end Sys2Proof.Machine
end

section
/-! SUPPORT. Whole WRITEs and READs from accept to end (O33, O34, O35, O37, O38): the parts they are made of,
once for both commands, then the byte loops. -/

namespace Sys2Proof.Machine

open Sys2Proof.Claims Sys2Proof.Safety

/-! ### The parts of a transaction -/

section Parts

variable {i : Instr} {s : State} {c d : List Level}

/-- The accept before a run of the accepted command leaves no event (R12, R27). -/
theorem Runs.of_accept {l m : Nat} {t : State} {tr : List Event}
    {o : Host.Outcome State Fault Refusal} (hl : l = m + 1) (hb : s.busy = false)
    (h : exec i s = .next t) (r : Runs i m t tr o) : Runs i l s tr o := by
  have hev : execEvents i s = [] := by simp [execEvents, hb]
  simpa [hev, hl] using Runs.step h r

@[simp] theorem ackOf_low : ackOf .low = true := rfl

/-- The engine after A5 of the address byte `b`, answered `ack` and no wait made longer, the scripts `c` and
`d` still to come (R120, R141, R145). -/
def afterAddress (b : Byte) (ack : Bool) (c d : List Level) (s : State) : State :=
  { s with
    outScl := .drivenLow, outSda := .released, bitcnt := 0, waitcnt := 1, ack, sclIn := c, sdaIn := d,
    upc := .send .address b (.a5 ack) }

/-- `start()` and the address byte, answered `v`, by the command `i` (R141, R145). -/
theorem header_runs {b : Byte} {v : Level} (hstart : callsStart i) (hsend : callsSend i .address)
    (hafter : ∀ t, afterStart i () t = .next (enterSend .address b t))
    (hb : s.busy = true) (hu : s.upc = .start .s1) (hn : mayFail s.cfg 0)
    (hc : s.sclIn = .high :: .high :: c) (hd : s.sdaIn = .high :: v :: d) :
    Runs i 52 s (blockStart ++ blockSend b v)
      (afterSend i .address (ackOf v) (afterAddress b (ackOf v) c d s)) := by
  have rs := start_runs (s := s) (ps := []) (exec_start hstart) nofun hb hu hc hd hn
  rw [hafter] at rs
  have ra := send_runs (s := enterSend .address b { s with
      outScl := .drivenLow, outSda := .drivenLow, waitcnt := 1, sclIn := .high :: c, sdaIn := v :: d,
      upc := .start .s7 }) (n := 0) (exec_send hsend) hb rfl rfl rfl rfl hn
  exact rs.append ra

/-- `stop()` and what follows it, by the command `i` in a block with the parameters `p` (R107, R141,
R145). -/
theorem closing_runs {after : Closing} {p : Params} (hp : s.cfg = p) (hstop : callsStop i after)
    (hb : s.busy = true) (hn : mayFail p 0) (hc : s.sclIn = .high :: c) (hd : s.sdaIn = .high :: d) :
    Runs i (stopOps p) (enterStop after s) (stopEvents p [])
      (.next (conclude after { s with
        outScl := .released, outSda := .released, waitcnt := 1, sclIn := c, sdaIn := d,
        upc := .stop after .p5 })) := by
  subst hp
  have r := stop_runs (s := enterStop after s) (ps := []) (exec_stop hstop) nofun hb rfl hc hd hn
  rw [stopOps_eq]
  refine ⟨r.1, r.2.trans (?_ : predriveEvents s.cfg ++ _ = _)⟩
  simp [stopEvents, predriveEvents, polls_eq]

end Parts

/-! ### WRITE -/

section Write

variable {address : BitVec 7} {n k : Byte} {s : State} {c d : List Level}

/-- The engine at B1 of data byte `k`, all before it acknowledged, the scripts `c` and `d` still to come:
the loop of R141. -/
def atDataByte (k : Byte) (c d : List Level) (s : State) : State :=
  enterSend .data (readByte s (txBase + k.toNat)) { s with
    outScl := .drivenLow, outSda := .released, waitcnt := 1, idx := k, nwritten := k, ack := true,
    sclIn := c, sdaIn := d }

/-- The engine after A5 of data byte `k`, answered `ack`. -/
def afterDataByte (k : Byte) (ack : Bool) (c d : List Level) (s : State) : State :=
  { atDataByte k c d s with
    bitcnt := 0, ack, upc := .send .data (readByte s (txBase + k.toNat)) (.a5 ack) }

theorem dataByte_runs (v : Level) (hb : s.busy = true) (hn : mayFail s.cfg 0) :
    Runs (.write address n) 45 (atDataByte k (.high :: c) (v :: d) s)
      (blockSend (readByte s (txBase + k.toNat)) v)
      (writeAfterData n (ackOf v) (afterDataByte k (ackOf v) c d s)) :=
  send_runs (s := atDataByte k (.high :: c) (v :: d) s) (n := 0)
    (exec_send (i := .write address n) (site := .data) nofun) hb rfl rfl rfl rfl hn

/-- An acknowledged byte that is not the last leads to the next one (R141, R144). -/
theorem writeAfterData_atDataByte (hk : k.toNat + 1 < n.toNat) (hcap : n.toNat ≤ s.cfg.bufCap) :
    writeAfterData n true (afterDataByte k true c d s) = .next (atDataByte (k + 1) c d s) := by
  have hs : (k + 1).toNat = k.toNat + 1 := succ_toNat_of_more ((moreAfter_iff k n).2 hk)
  rw [writeAfterData_more (s := afterDataByte k true c d s) hk (Nat.lt_of_lt_of_le hk hcap),
    atDataByte, hs]
  rfl

/-- The last byte acknowledged (R141, R144). -/
theorem writeAfterData_lastByte (hk : n.toNat = k.toNat + 1) :
    writeAfterData n true (afterDataByte k true c d s)
      = .next (enterStop .success { afterDataByte k true c d s with nwritten := n }) := by
  have hs : (afterDataByte k true c d s).idx + 1 = n := by
    change k + 1 = n
    bv_omega
  rw [writeAfterData_last (s := afterDataByte k true c d s) hk.le, hs]

theorem txBytes_succ (s : State) (m : Nat) :
    txBytes s (m + 1) = txBytes s m ++ [readByte s (txBase + m)] := by
  simp [txBytes, List.range_succ]

/-- The loop of WRITE up to data byte `k`, the `m` bytes before it acknowledged (R141). -/
theorem dataBytes_runs {m : Nat} (hm : k.toNat = m) (hk : m < n.toNat) (hcap : n.toNat ≤ s.cfg.bufCap)
    (hb : s.busy = true) (hn : mayFail s.cfg 0) :
    Runs (.write address n) (45 * m)
      (atDataByte 0 (List.replicate m Level.high ++ c) (List.replicate m Level.low ++ d) s)
      ((txBytes s m).flatMap (blockSend · .low)) (.next (atDataByte k c d s)) := by
  induction m generalizing k c d with
  | zero =>
    obtain rfl : k = 0 := BitVec.eq_of_toNat_eq hm
    exact Runs.zero _ _
  | succ m ih =>
    have hpred : (k - 1).toNat = m := by bv_omega
    have r := (ih hpred (c := .high :: c) (d := .low :: d) (Nat.lt_of_succ_lt hk)).append
      (dataByte_runs .low hb hn)
    rw [ackOf_low, writeAfterData_atDataByte (hpred.symm ▸ hk) hcap, hpred,
      BitVec.sub_add_cancel] at r
    simpa [txBytes_succ, List.replicate_succ', Nat.mul_succ] using r

/-- A WRITE accepted, at S1 (R27). -/
def acceptedWrite (address : BitVec 7) (n : Byte) (s : State) : State :=
  { accepted (.write address n) (.start .s1) s with nwritten := 0 }

theorem exec_write_accepted (hb : s.busy = false) (hn : n ≠ 0) (hcap : n.toNat ≤ s.cfg.bufCap) :
    exec (.write address n) s = .next (acceptedWrite address n s) := by
  rw [exec_write_idle hb hcap, if_neg hn, decide_eq_true hn]
  rfl

/-- START and the address byte of a WRITE, answered `v` (R141). -/
theorem writeHeader_runs (v : Level) (hn : mayFail s.cfg 0) (hc : s.sclIn = .high :: .high :: c)
    (hd : s.sdaIn = .high :: v :: d) :
    Runs (.write address n) 52 (acceptedWrite address n s)
      (blockStart ++ blockSend (addrByte address false) v)
      (writeAfterAddress (ackOf v)
        (afterAddress (addrByte address false) (ackOf v) c d (acceptedWrite address n s))) :=
  header_runs (i := .write address n) (s := acceptedWrite address n s) trivial nofun (fun _ => rfl)
    rfl rfl hn hc hd

/-- A WRITE up to data byte `k`, answered `v`, all before it acknowledged (R141, R144). -/
theorem writeUpTo_runs (v : Level) (hk : k.toNat < n.toNat) (hcap : n.toNat ≤ s.cfg.bufCap)
    (hn : mayFail s.cfg 0) (hc : s.sclIn = List.replicate (k.toNat + 4) .high ++ c)
    (hd : s.sdaIn = .high :: (List.replicate (k.toNat + 1) .low ++ v :: .high :: d)) :
    Runs (.write address n) (52 + 45 * k.toNat + 45) (acceptedWrite address n s)
      (blockStart ++ blockSend (addrByte address false) .low ++
        (txBytes s k.toNat).flatMap (blockSend · .low) ++ blockSend (readByte s (txBase + k.toNat)) v)
      (writeAfterData n (ackOf v)
        (afterDataByte k (ackOf v) (.high :: c) (.high :: d) (acceptedWrite address n s))) := by
  have hc' : s.sclIn = .high :: .high :: (List.replicate k.toNat .high ++ .high :: .high :: c) := by
    rw [hc, show k.toNat + 4 = 2 + (k.toNat + 2) by omega, ← List.replicate_append_replicate,
      ← List.replicate_append_replicate, List.append_assoc, List.append_assoc]
    rfl
  have hcap' : 0 < s.cfg.bufCap := by omega
  have rh := writeHeader_runs (n := n) (address := address) .low hn hc' hd
  rw [ackOf_low,
    writeAfterAddress_ack (s := afterAddress _ true _ _ (acceptedWrite address n s)) hcap'] at rh
  have rl := dataBytes_runs (address := address) (s := acceptedWrite address n s)
    (c := .high :: .high :: c) (d := v :: .high :: d) rfl hk hcap rfl hn
  exact (rh.append rl).append (dataByte_runs v rfl hn)

end Write

/-- Settles O33: the loop up to the last byte, which is acknowledged too, then `stop()`. -/
theorem writeCompletes : Obligations.WriteCompletes := by
  intro s address n c d hb h0 hcap hn hc hd
  have hk : n.toNat = (n - 1).toNat + 1 := by bv_omega
  have hlast : (n - 1).toNat < n.toNat := by omega
  rw [hk] at hc hd
  rw [List.replicate_succ', List.append_assoc] at hd
  have ru := writeUpTo_runs (address := address) .low hlast hcap hn hc hd
  rw [ackOf_low, writeAfterData_lastByte hk] at ru
  have r := ru.append (closing_runs (i := .write address n) (p := s.cfg) rfl trivial rfl hn rfl rfl)
  have hlen : 52 + 45 * n.toNat + stopOps s.cfg = 52 + 45 * (n - 1).toNat + 45 + stopOps s.cfg := by
    omega
  have hacc := exec_write_accepted (address := address) hb h0 hcap
  refine ⟨hacc, ?_, ?_⟩
  · rw [hlen]
    exact r.1
  · rw [(Runs.of_accept (by omega) hb hacc r).2, hk, txBytes_succ]
    simp

/-- Settles O35: the loop up to byte `k`, which is not acknowledged, then `stop()`. -/
theorem writeDataNak : Obligations.WriteDataNak := by
  intro s address n k c d hb hk hcap hn hc hd
  have h0 : n ≠ 0 := by
    rintro rfl
    exact Nat.not_lt_zero _ hk
  have ru := writeUpTo_runs (address := address) .high hk hcap hn hc hd
  have r := ru.append (closing_runs (i := .write address n) (p := s.cfg) rfl trivial rfl hn rfl rfl)
  exact Runs.of_accept (by omega) hb (exec_write_accepted hb h0 hcap) r

/-- Settles O34: the header, its address not acknowledged, then `stop()`. -/
theorem writeAddressNak : Obligations.WriteAddressNak := by
  intro s address n c d hb h0 hcap hn hc hd
  have rh := writeHeader_runs (address := address) (n := n) .high hn hc hd
  have r := rh.append (closing_runs (i := .write address n) (p := s.cfg) rfl trivial rfl hn rfl rfl)
  exact Runs.of_accept (by omega) hb (exec_write_accepted hb h0 hcap) r

/-! ### READ -/

section Read

variable {address : BitVec 7} {n : Byte} {nostop : Bool} {s : State} {c d : List Level}

/-- RXBUF with the bytes `bs` stored from index `k` on is a new memory and nothing else (R51). -/
def rxMemory : Nat → List Byte → Memory → Memory
  | _, [], m => m
  | k, b :: bs, m => rxMemory (k + 1) bs (m.write (rxBase + k) b)

theorem storeRx_eq (k : Nat) (bs : List Byte) (s : State) :
    storeRx k bs s = { s with mem := rxMemory k bs s.mem } := by
  induction bs generalizing k s with
  | nil => rfl
  | cons b bs ih => exact ih (k + 1) (writeByte (rxBase + k) b s)

/-- A READ accepted, at S1 (R27). -/
def acceptedRead (address : BitVec 7) (n : Byte) (nostop : Bool) (s : State) : State :=
  { accepted (.read address n nostop) (.start .s1) s with nread := 0 }

theorem exec_read_accepted (hb : s.busy = false) (hn : n ≠ 0) (hcap : n.toNat ≤ s.cfg.bufCap) :
    exec (.read address n nostop) s = .next (acceptedRead address n nostop s) := by
  rw [exec_read_idle hb hcap, if_neg hn, decide_eq_true hn]
  rfl

/-- START and the address byte of a READ, answered `v` (R145). -/
theorem readHeader_runs (v : Level) (hn : mayFail s.cfg 0) (hc : s.sclIn = .high :: .high :: c)
    (hd : s.sdaIn = .high :: v :: d) :
    Runs (.read address n nostop) 52 (acceptedRead address n nostop s)
      (blockStart ++ blockSend (addrByte address true) v)
      (readAfterAddress n (ackOf v)
        (afterAddress (addrByte address true) (ackOf v) c d (acceptedRead address n nostop s))) :=
  header_runs (i := .read address n nostop) (s := acceptedRead address n nostop s) trivial rfl
    (fun _ => rfl) rfl rfl hn hc hd

/-- The engine after the last of the `n` bytes of a READ, of which `bs` are those from IDX on: all of them
stored and counted (R145). -/
def afterReadBytes (n : Byte) (bs : List Byte) (d : List Level) (s : State) : State :=
  { s with
    outScl := .drivenLow, outSda := .released, acc := bs.getLast!, bitcnt := 0, data := bs.getLast!,
    idx := n - 1, nread := n, mem := rxMemory s.idx.toNat bs s.mem, sdaIn := d, upc := .recv false .k7 }

/-- What follows the last byte of a READ (R145, R148). -/
def readEnd (nostop : Bool) (s : State) : State :=
  if nostop then endOk s else enterStop .success s

/-- The last byte is stored at index `n - 1` and makes NREAD `n` (R145, R148). -/
theorem readAfterByte_end (hn : s.idx.toNat + 1 = n.toNat) (hcap : n.toNat ≤ s.cfg.bufCap) (v : Byte) :
    readAfterByte n nostop v s = .next (readEnd nostop
      { writeByte (rxBase + s.idx.toNat) v s with idx := n - 1, nread := n }) := by
  have hidx : n - 1 = s.idx := by bv_omega
  have hcount : n = s.idx + 1 := by bv_omega
  rw [readAfterByte_last (by omega) hn.ge, hidx, hcount]
  cases nostop <;> rfl

/-- The engine after K7 of a byte `b`, with the acknowledge `a`. -/
def afterReadByte (a : Bool) (b : Byte) (d : List Level) (s : State) : State :=
  { s with
    outScl := .drivenLow, outSda := .released, acc := b, bitcnt := 0, data := b, sdaIn := d,
    upc := .recv a .k7 }

theorem readByte_runs {a : Bool} {b : Byte} (hb : s.busy = true) (hu : s.upc = .recv a .c0)
    (hd : s.sdaIn = byteLevels b ++ d) :
    Runs (.read address n nostop) (if a then 48 else 47) s (blockRecv b a)
      (readAfterByte n nostop b (afterReadByte a b d s)) := by
  have r := recv_runs (exec_recv (i := .read address n nostop) trivial) hb hu hd
  rw [blockRecv_length] at r
  exact r

/-- The engine at C0 of the byte after `b`, with `b` stored and counted. -/
def atNextReadByte (n b : Byte) (d : List Level) (s : State) : State :=
  enterReadByte (s.idx + 1) n (storedRead b (afterReadByte true b d s))

theorem afterReadBytes_next {b b' : Byte} {bs : List Byte} {e : List Level}
    (hs : (s.idx + 1).toNat = s.idx.toNat + 1) :
    afterReadBytes n (b' :: bs) d (atNextReadByte n b e s)
      = afterReadBytes n (b :: b' :: bs) d s := by
  rw [afterReadBytes, show (atNextReadByte n b e s).idx.toNat = s.idx.toNat + 1 from hs]
  rfl

/-- The loop of READ from byte IDX on (R145, R147). -/
theorem readBytes_runs {bs : List Byte} (hne : bs ≠ []) (hn : s.idx.toNat + bs.length = n.toNat)
    (hcap : n.toNat ≤ s.cfg.bufCap) (hb : s.busy = true)
    (hu : s.upc = .recv (ackAfter s.idx.toNat n) .c0) (hd : s.sdaIn = bs.flatMap byteLevels ++ d) :
    Runs (.read address n nostop) (48 * bs.length - 1) s (recvEvents bs)
      (.next (readEnd nostop (afterReadBytes n bs d s))) := by
  induction bs generalizing s with
  | nil => exact absurd rfl hne
  | cons b bs ih =>
    rw [List.flatMap_cons, List.append_assoc] at hd
    rw [List.length_cons] at hn
    have r := readByte_runs (address := address) (n := n) (nostop := nostop) hb hu hd
    cases bs with
    | nil =>
      have ha : ackAfter s.idx.toNat n = false := decide_eq_false (Nat.not_lt.2 hn.ge)
      rw [ha, readAfterByte_end (s := afterReadByte false b _ s) hn hcap] at r
      exact r
    | cons b' bs =>
      rw [List.length_cons] at hn
      have hlt : s.idx.toNat + 1 < n.toNat := by omega
      have ha : ackAfter s.idx.toNat n = true := decide_eq_true hlt
      have hs : (s.idx + 1).toNat = s.idx.toNat + 1 :=
        succ_toNat_of_more ((moreAfter_iff s.idx n).2 hlt)
      have hcap' : s.idx.toNat < s.cfg.bufCap := by omega
      rw [ha, readAfterByte_more (s := afterReadByte true b _ s) hcap' hlt] at r
      have hn' : (s.idx + 1).toNat + (b' :: bs).length = n.toNat := by
        rw [hs, List.length_cons]
        omega
      have rl := ih (s := atNextReadByte n b ((b' :: bs).flatMap byteLevels ++ d) s) nofun
        hn' hcap hb rfl rfl
      rw [afterReadBytes_next hs] at rl
      have hlen : 48 * (b :: b' :: bs).length - 1 = 48 + (48 * (b' :: bs).length - 1) := by
        rw [List.length_cons, List.length_cons]
        omega
      rw [hlen]
      exact r.append rl

/-- After the last byte: with NOSTOP the end, the clock still driven low, else `stop()` (R148). -/
theorem readEnd_runs {bs : List Byte} (hb : s.busy = true) (hn : mayFail s.cfg 0) :
    Runs (.read address n nostop) (if nostop then 0 else stopOps s.cfg)
      (readEnd nostop (afterReadBytes n bs (if nostop then d else .high :: d)
        { s with waitcnt := 1, sclIn := if nostop then c else .high :: c }))
      (if nostop then [] else stopEvents s.cfg [])
      (.next (endOk { afterReadBytes n bs d s with
        outScl := if nostop then .drivenLow else .released, waitcnt := 1, sclIn := c })) := by
  cases nostop with
  | true => exact Runs.zero _ _
  | false =>
    exact closing_runs (i := .read address n false) (after := .success) (p := s.cfg) rfl nofun hb hn
      rfl rfl

/-- The engine at C0 of the first byte of a READ, its address acknowledged, the scripts `c` and `d` still to
come (R145). -/
def atFirstReadByte (n : Byte) (c d : List Level) (s : State) : State :=
  enterReadByte 0 n { s with
    outScl := .drivenLow, outSda := .released, bitcnt := 0, waitcnt := 1, ack := true, sclIn := c,
    sdaIn := d }

/-- A whole READ of the bytes `bs`, from its first micro-op to its end (R145, R148). -/
theorem read_runs {bs : List Byte} (hne : bs ≠ []) (hlen : bs.length = n.toNat)
    (hcap : n.toNat ≤ s.cfg.bufCap) (hn : mayFail s.cfg 0)
    (hc : s.sclIn = .high :: .high :: (if nostop then c else .high :: c))
    (hd : s.sdaIn = .high :: .low :: (bs.flatMap byteLevels ++ (if nostop then d else .high :: d))) :
    Runs (.read address n nostop)
      (52 + (48 * bs.length - 1) + if nostop then 0 else stopOps s.cfg)
      (acceptedRead address n nostop s)
      (blockStart ++ blockSend (addrByte address true) .low ++ recvEvents bs ++
        if nostop then [] else stopEvents s.cfg [])
      (.next (endOk {
        afterReadBytes n bs d (atFirstReadByte n c d (acceptedRead address n nostop s)) with
        outScl := if nostop then .drivenLow else .released, waitcnt := 1, sclIn := c })) := by
  have rh := readHeader_runs (address := address) (n := n) (nostop := nostop) .low hn hc hd
  have rl := readBytes_runs (address := address) (n := n) (nostop := nostop)
    (s := atFirstReadByte n (if nostop then c else .high :: c)
      (bs.flatMap byteLevels ++ if nostop then d else .high :: d)
      (acceptedRead address n nostop s)) hne ((Nat.zero_add _).trans hlen) hcap rfl rfl rfl
  exact (rh.append rl).append
    (readEnd_runs (s := atFirstReadByte n c d (acceptedRead address n nostop s)) rfl hn)

end Read

/-- Settles O38: the header, its address not acknowledged, then `stop()`, whatever NOSTOP is. -/
theorem readAddressNak : Obligations.ReadAddressNak := by
  intro s address n nostop c d hb h0 hcap hn hc hd
  have rh := readHeader_runs (address := address) (n := n) (nostop := nostop) .high hn hc hd
  have r := rh.append
    (closing_runs (i := .read address n nostop) (p := s.cfg) rfl nofun rfl hn rfl rfl)
  exact Runs.of_accept (by omega) hb (exec_read_accepted hb h0 hcap) r

/-- Settles O37: the whole READ, with the bytes of RXBUF as one memory. -/
theorem readCompletes : Obligations.ReadCompletes := by
  intro s address bs nostop c d hb hne h255 hcap hn hc hd
  have hlen : bs.length = (BitVec.ofNat 8 bs.length).toNat := by
    rw [BitVec.toNat_ofNat]
    omega
  have hpos : 0 < bs.length := List.length_pos_iff.2 hne
  have h0 : BitVec.ofNat 8 bs.length ≠ 0 := by bv_omega
  have hidx : BitVec.ofNat 8 (bs.length - 1) = BitVec.ofNat 8 bs.length - 1 := by bv_omega
  have r := read_runs (address := address) (n := BitVec.ofNat 8 bs.length) hne hlen (hlen ▸ hcap) hn
    hc hd
  have hacc := exec_read_accepted (address := address) (nostop := nostop) hb h0 (hlen ▸ hcap)
  refine ⟨hacc, ?_, ?_⟩
  · rw [show 51 + 48 * bs.length = 52 + (48 * bs.length - 1) by omega, storeRx_eq, hidx]
    exact r.1
  · exact (Runs.of_accept (by omega) hb hacc r).2

end Sys2Proof.Machine
end

section
/-! SUPPORT. O57: the wire observer over a whole acknowledged WRITE: START, its bytes, and what `stop()` shows
under each value of P_STOP_PREDRIVE (R113, C2). -/

namespace Sys2Proof.Machine

open Sys2Proof.Claims

/-- The observer between two bytes of a transaction, with `xs` written down: the clock driven low, the data
line released, no bit collected (95 section 1). -/
structure BetweenBytes (xs : List Symbol) (o : Observer) : Prop where
  scl : o.scl = .drivenLow
  sda : o.sda = .released
  bits : o.bits = []
  symbols : o.symbols = xs

/-- An acknowledged byte (R120, R124). -/
theorem betweenBytes_blockSend {o : Observer} (hs : o.scl = .drivenLow) (hb : o.bits = []) (b : Byte) :
    BetweenBytes (o.symbols ++ [.byte b, .ack]) (o.over (blockSend b .low)) := by
  have h := took_sendByte hs b 0 .low
  obtain ⟨bits, symbols⟩ := h.byte hb
  exact ⟨h.scl, h.sda, bits, symbols⟩

theorem BetweenBytes.flatMap_blockSend {xs : List Symbol} {o : Observer} (h : BetweenBytes xs o)
    (bs : List Byte) :
    BetweenBytes (xs ++ bs.flatMap (fun b => [.byte b, .ack]))
      (o.over (bs.flatMap (blockSend · .low))) := by
  induction bs generalizing xs o with
  | nil =>
    rw [List.flatMap_nil, List.append_nil]
    exact h
  | cons b bs ih =>
    have k := betweenBytes_blockSend h.scl h.bits b
    rw [h.symbols] at k
    rw [List.flatMap_cons, List.flatMap_cons, Observer.over_append, ← List.append_assoc]
    exact ih k

/-- `stop()` after a byte: SDA rises under a released clock only where P0 has driven it low (R113, C2). -/
theorem BetweenBytes.stop {xs : List Symbol} {o : Observer} (h : BetweenBytes xs o) (p : Params) :
    (o.over (stopEvents p [])).symbols = xs ++ if p.stopPredrive then [.stop] else [] := by
  obtain ⟨hscl, hsda, -, hsym⟩ := h
  cases hp : p.stopPredrive <;>
    simp [stopEvents, polls, hp, Observer.over, Observer.see, Observer.condition, hscl, hsda, hsym]

/-- Settles O57: the trace is `WriteCompletes`'s, and the observer reads it block by block. -/
theorem wireShowsWholeWrite : Obligations.WireShowsWholeWrite := by
  intro s address n c d hb ⟨hscl, hsda⟩ h0 hcap hn hc hd
  obtain ⟨-, -, htr⟩ := writeCompletes s address n c d hb h0 hcap hn hc hd
  have haddr := betweenBytes_blockSend (o := (Observer.fresh .released .released).over blockStart)
    rfl rfl (addrByte address false)
  have hbytes := haddr.flatMap_blockSend (txBytes s n.toNat)
  rw [htr, hscl, hsda, wire_eq, Observer.over_append, Observer.over_append, Observer.over_append]
  exact hbytes.stop s.cfg

end Sys2Proof.Machine
end

section
/-! SUPPORT. O60: the facade after a request: its first NREAD bytes are those of RXBUF (R166), so that
`read_next()` gives them in receipt order and then the sentinel (R167, R168). -/

namespace Sys2Proof.Machine

open Sys2Proof.Claims

theorem receivedBytes_getElem? {s : State} {k : Nat} (hk : k < s.nread.toNat) :
    (receivedBytes s)[k]? = some (readByte s (rxBase + k)) := by
  simp [receivedBytes, hk]

/-- At the end nothing is left (R167). -/
theorem Facade.available_of_end {f : Facade} (h : f.length ≤ f.cursor) : f.available = 0 :=
  Nat.sub_eq_zero_of_le h

/-- A byte before the end is one that `available()` counts (R167). -/
theorem Facade.available_of_lt {f : Facade} (h : f.cursor < f.length) :
    f.available = { f with cursor := f.cursor + 1 }.available + 1 := by
  simp only [Facade.available]
  omega

section Ended

variable {address : BitVec 7} {count : Byte} {sendStop : Bool} {patience : Nat} {f g : Facade}
  {s u : State}

/-- The copy of R166 overwrites the front of `buf` and so keeps its size. -/
theorem request_wf (hf : f.wf s.cfg) (h : request address count sendStop patience f s = .next (some g, u))
    (hn : u.nread.toNat ≤ s.cfg.facadeCap) : g.wf s.cfg := by
  obtain ⟨-, rfl⟩ := request_done h
  obtain ⟨hbuf, -, -⟩ := hf
  refine ⟨?_, Nat.zero_le _, hn⟩
  rw [List.length_append, receivedBytes_length, List.length_drop, hbuf]
  exact Nat.add_sub_cancel' hn

/-- The bytes of `buf` below `length` are RXBUF's, index for index (R166). -/
theorem request_getElem? (h : request address count sendStop patience f s = .next (some g, u)) {k : Nat}
    (hk : k < g.length) : g.buf[k]? = some (readByte u (rxBase + k)) := by
  obtain ⟨-, rfl⟩ := request_done h
  rw [List.getElem?_append_left (by simpa using hk)]
  exact receivedBytes_getElem? hk

end Ended

/-- Settles O60: R166 fixes the facade a request leaves, and each read is a lookup in it. -/
theorem facadeReadsInReceiptOrder : Obligations.FacadeReadsInReceiptOrder := by
  intro address count sendStop patience f g s u hf h
  obtain ⟨hbusy, hg⟩ := request_done h
  refine ⟨hbusy, by rw [hg], by rw [hg]; rfl, request_wf hf h, ?byte, ?sentinel⟩
  case byte =>
    intro r hbuf hlen hlt
    have hv : r.buf[r.cursor]? = some (readByte u (rxBase + r.cursor)) := by
      rw [hbuf]
      exact request_getElem? h (hlen ▸ hlt)
    have hr := Facade.readNext_of_byte (p := s.cfg) hlt hv
    rw [hr]
    exact ⟨rfl, Facade.available_of_lt hlt⟩
  case sentinel =>
    intro r hend
    exact ⟨Facade.readNext_of_end hend, Facade.available_of_end hend⟩

end Sys2Proof.Machine
end

section
/-! SUPPORT. Errors and the quiet engine: who writes ERR in a step of a running command (O46), both lines
released at every wait (O45), an idle engine between commands (O47), and the building of a block (O14). -/

namespace Sys2Proof.Machine

open Sys2Proof.Claims Sys2Proof.Safety

/-! ### Building a block (R6, R181) -/

/-- The parameters meet R6 exactly when each of its three conditions holds. -/
theorem params_wf_iff (p : Params) :
    p.wf ↔ p.sclPin ≠ p.sdaPin ∧ 1 ≤ p.bufCap ∧ p.bufCap ≤ 255 ∧ p.waitLimit ≠ some 0 := by
  unfold Params.wf Params.problem
  split_ifs with hpin hcap hlimit
  · exact iff_of_false nofun fun ⟨hne, _⟩ => hne hpin
  · exact iff_of_false nofun fun ⟨_, hlo, hhi, _⟩ => by omega
  · exact iff_of_false nofun fun ⟨_, _, _, hne⟩ => hne hlimit
  · exact iff_of_true rfl ⟨hpin, by omega, by omega, hlimit⟩

/-- Settles O14: `State.build` asks for R6 and nothing else. -/
theorem builtOnlyFromLegalParameters : Obligations.BuiltOnlyFromLegalParameters := by
  intro p
  rw [← params_wf_iff]
  refine ⟨fun h => ?_, fun h => ?_⟩
  · have hp : p.problem = none := h
    simp only [State.build, hp]
  · obtain ⟨e, he⟩ := Option.ne_none_iff_exists'.1 h
    exact ⟨e, by simp only [State.build, he]⟩

/-! ### An idle engine (R187, R194, R210) -/

/-- A step of an idle engine that is neither an issue nor a reset changes the host's list, and at most one
byte of TXBUF (R50, R194). -/
theorem step_idle_cases {s t : State} (hb : s.busy = false) (h : step s = .next t)
    (hissue : ∀ w rest, s.host ≠ .write 0 w :: rest) (hreset : ∀ rest, s.host ≠ .reset :: rest) :
    ∃ rest, t = { s with host := rest } ∨
      ∃ n v, inTxWindow s.cfg n = true ∧ t = writeByte n v { s with host := rest } := by
  rcases step_cases h with ⟨-, he⟩ | ⟨rest, -, he⟩ | ⟨n, w, rest, hh, hw⟩ | ⟨-, rest, -, rfl⟩ |
    ⟨rest, hh, -⟩
  · rw [engineStep_idle hb] at he
    cases he
    exact ⟨s.host, .inl rfl⟩
  · rw [engineStep_idle (s := { s with host := rest }) hb] at he
    cases he
    exact ⟨rest, .inl rfl⟩
  · rcases hostWrite_cases hw with ⟨rfl, -⟩ | ⟨-, hn, -, rfl⟩ | ⟨-, -, rfl⟩
    · exact absurd hh (hissue w rest)
    · exact ⟨rest, .inr ⟨n, _, hn, rfl⟩⟩
    · exact ⟨rest, .inl rfl⟩
  · exact ⟨rest, .inl rfl⟩
  · exact absurd hh (hreset rest)

/-- Settles O47: such a step touches no register, and no byte of RXBUF since TXBUF lies below it. -/
theorem idleKeepsResults : Obligations.IdleKeepsResults := by
  intro s t hb h hissue hreset
  obtain ⟨rest, rfl | ⟨n, v, hn, rfl⟩⟩ := step_idle_cases hb h hissue hreset
  · exact ⟨hb, rfl, rfl, rfl, rfl, rfl, rfl, rfl, rfl, fun _ _ _ => rfl⟩
  · exact ⟨hb, rfl, rfl, rfl, rfl, rfl, rfl, rfl, rfl, fun k _ hcap =>
      readByte_rx_of_txWrite (s := { s with host := rest }) hcap hn k⟩

/-! ### The waits (R108, R179) -/

section Waits

variable {i : Instr} {c : WaitCond} {s t : State}

/-- A command that answers a next state at S3, P5 or A3 calls the operation that waits there. -/
theorem exists_waitPlace (h : runOf i s = .next t)
    (hu : (∃ k, s.upc = .stop k .p5) ∨ s.upc = .start .s3 ∨ ∃ site b, s.upc = .send site b .a3) :
    ∃ c, WaitPlace i c s.upc := by
  have hp := runOf_hasPlace h
  rcases hu with ⟨k, hu⟩ | hu | ⟨site, b, hu⟩ <;> rw [hu] at hp ⊢
  · cases hp with | stop hc => exact ⟨_, .stop hc⟩
  · cases hp with | start hc => exact ⟨_, .start hc⟩
  · cases hp with | send hc => exact ⟨_, .send hc⟩

/-- The micro-op at a wait is its poll (R96). -/
theorem WaitPlace.microOpOf_eq (hw : WaitPlace i c s.upc) : microOpOf i s = some (.wait c) := by
  generalize hu : s.upc = u at hw
  cases hw <;> simp [microOpOf, hu, StartPos.microOp, StopPos.microOp, SendPos.microOp]

/-- A wait is reached with both lines released (R105, R107, R120). -/
theorem WaitPlace.lines_released (hw : WaitPlace i c s.upc) (hl : linesOk s) : bothReleased s := by
  unfold linesOk at hl
  generalize s.upc = u at hw hl
  cases hw <;> exact hl

/-- A poll drives no line, and neither does what follows it: the next place, the end of the command or
BUS_STUCK (R96, R176, R179). -/
theorem drives_of_wait (hw : WaitPlace i c s.upc) (h : runOf i s = .next t) : t.drives = s.drives := by
  obtain ⟨m, hm, ht⟩ := runOf_drives h
  obtain rfl : .wait c = m := Option.some.inj (hw.microOpOf_eq.symm.trans hm)
  simpa [State.drives] using ht

end Waits

/-- Settles O45: the lines are released at a wait, and no step from it drives one. -/
theorem waitsAndEndsReleaseTheBus : Obligations.WaitsAndEndsReleaseTheBus := by
  intro s t i hs hb _ h hu
  rw [exec_busy hb] at h
  obtain ⟨c, hw⟩ := exists_waitPlace h hu
  have hr := hw.lines_released hs.outOk
  obtain ⟨hscl, hsda⟩ := Prod.mk.inj (drives_of_wait hw h)
  exact ⟨hr, fun _ => ⟨hscl.trans hr.1, hsda.trans hr.2⟩⟩

/-! ### Who raises BUS_STUCK (R97) -/

/-- A poll that ends the wait has met a bound, so one is set (R97). -/
theorem afterPoll_stuck {π ρ : Type} {v : Level} {s : State} {again : π} {on : Flow π ρ}
    (h : (afterPoll v s again on).2 = .stuck) (hon : on ≠ .stuck) : s.cfg.waitLimit ≠ none := by
  rcases afterPoll_cases v s again on with ⟨-, ha⟩ | ⟨-, -, ha⟩ | ⟨-, hx, -⟩
  · rw [ha] at h
    exact absurd h hon
  · rw [ha] at h
    cases h
  · obtain ⟨n, hn, -⟩ := (waitExpired_iff s).1 hx
    simp [hn]

theorem startStep_stuck {p : StartPos} {s : State} (h : (startStep p s).2 = .stuck) :
    p = .s3 ∧ s.cfg.waitLimit ≠ none := by
  cases p with
  | s3 => exact ⟨rfl, perform_cfg (.wait .bothHigh) s ▸ afterPoll_stuck h nofun⟩
  | s1 | s2 | s4 | s5 | s6 | s7 => cases h

theorem stopStep_stuck {p : StopPos} {s : State} (h : (stopStep p s).2 = .stuck) :
    p = .p5 ∧ s.cfg.waitLimit ≠ none := by
  cases p with
  | p5 => exact ⟨rfl, perform_cfg (.wait .bothHigh) s ▸ afterPoll_stuck h nofun⟩
  | p0 | p1 | p2 | p3 | p4 => cases h

theorem sendStep_stuck {b : Byte} {p : SendPos} {s : State} (h : (sendStep b p s).2 = .stuck) :
    p = .a3 ∧ s.cfg.waitLimit ≠ none := by
  cases p with
  | a3 => exact ⟨rfl, perform_cfg (.wait .sclHigh) s ▸ afterPoll_stuck h nofun⟩
  | b5 =>
    simp only [sendStep, nextSendBit] at h
    split at h <;> cases h
  | b1 | b2 | b3 | b4 | a1 | a2 | a4 | a5 => cases h

/-- P5 alone ends `stop()` (R107). -/
theorem stopStep_done {p : StopPos} {s : State} {x : Unit} (h : (stopStep p s).2 = .done x) :
    p = .p5 := by
  cases p with
  | p5 => rfl
  | p0 | p1 | p2 | p3 | p4 => cases h

/-! ### ERR in one step of a running command (R175, R176) -/

/-- The one step of the running command `i` from `s` to `t` leaves ERR, or ends the command at a wait: by
BUS_STUCK, which needs a bound, or by the error its `stop()` is followed by (R97, R176, R177, R178). -/
inductive ErrStep (i : Instr) (s t : State) : Prop where
  | kept (h : t.err = s.err)
  | busStuck {c : WaitCond} (hw : WaitPlace i c s.upc) (hlimit : s.cfg.waitLimit ≠ none)
    (h : t.err = .busStuck)
  | nakAddress (hc : callsStop i .nakAddress) (hu : s.upc = .stop .nakAddress .p5)
    (h : t.err = .noAckAddress)
  | nakData (hc : callsStop i .nakData) (hu : s.upc = .stop .nakData .p5)
    (h : t.err = .noAckData)

section Errors

variable {i : Instr} {s t : State}

/-- A line-driver command records LVL at most (R94). -/
theorem lineRecord_err (i : Instr) (v : Level) (s : State) : (lineRecord i v s).err = s.err := by
  cases i <;> rfl

theorem afterStart_err {x : Unit} (h : afterStart i x s = .next t) : t.err = s.err := by
  cases i <;> cases h <;> rfl

theorem afterSend_err {site : SendSite} {ack : Bool} (h : afterSend i site ack s = .next t) :
    t.err = s.err := by
  unfold afterSend at h
  split at h
  · rcases writeAfterAddress_cases h with ⟨-, rfl⟩ | ⟨-, rfl⟩ <;> rfl
  · rcases writeAfterData_cases h with ⟨-, -, rfl⟩ | ⟨-, -, rfl⟩ | ⟨-, rfl⟩ <;> rfl
  · rcases readAfterAddress_cases h with ⟨-, rfl⟩ | ⟨-, rfl⟩ <;> rfl
  · cases h; rfl

theorem afterRecv_err {v : Byte} (h : afterRecv i v s = .next t) : t.err = s.err := by
  cases i with
  | read address c nostop =>
    obtain ⟨-, ⟨-, rfl⟩ | ⟨-, -, rfl⟩ | ⟨-, -, rfl⟩⟩ := readAfterByte_cases h <;> rfl
  | release | driveLow | readLine | start | stop | sendByte | receiveByte | write => cases h; rfl

/-- An operation inside its caller: a micro-op writes no ERR, so only the operation's end can. -/
theorem errStep_of_resume {π ρ : Type} {r : State × Flow π ρ} {place : π → Upc}
    {K : ρ → State → Host.Outcome State Fault Refusal} (k : Kept s r.1)
    (hstuck : r.2 = .stuck → ErrStep i s (raise .busStuck r.1))
    (hK : ∀ x, r.2 = .done x → K x r.1 = .next t → ErrStep i s t)
    (h : resume r place K = .next t) : ErrStep i s t := by
  rcases resume_cases h with ⟨p, -, rfl⟩ | ⟨x, hx, ht⟩ | ⟨hs, rfl⟩
  · exact .kept k.err
  · exact hK x hx ht
  · exact hstuck hs

/-- P5 holds: the command ends as `after` says (R141, R145, R177, R178). -/
theorem errStep_conclude {after : Closing} {r : State} (hc : callsStop i after)
    (hu : s.upc = .stop after .p5) (k : Kept s r) : ErrStep i s (conclude after r) := by
  cases after with
  | success => exact .kept k.err
  | nakAddress => exact .nakAddress hc hu rfl
  | nakData => exact .nakData hc hu rfl

/-- One step of a running command, by the operation at UPC. -/
theorem runOf_errStep (h : runOf i s = .next t) : ErrStep i s t := by
  have hp := runOf_hasPlace h
  generalize hu : s.upc = u at hp
  cases hp with
  | @line m hm =>
    rw [runOf_line hm] at h
    obtain ⟨-, rfl⟩ := lineStep_cases h
    exact .kept ((lineRecord_err i _ _).trans (perform_kept m s).err)
  | @start p hc =>
    have k := startStep_kept p s
    refine errStep_of_resume k (fun hs => ?_) (fun _ _ hx => .kept ((afterStart_err hx).trans k.err))
      (runOf_start hc hu ▸ h)
    obtain ⟨rfl, hlimit⟩ := startStep_stuck hs
    exact .busStuck (c := .bothHigh) (hu ▸ .start hc) hlimit rfl
  | @stop after p hc =>
    have k := stopStep_kept p s
    rw [runOf_stop hc hu] at h
    refine errStep_of_resume k (fun hs => ?_) (fun _ hd hx => ?_) h
    · obtain ⟨rfl, hlimit⟩ := stopStep_stuck hs
      exact .busStuck (c := .bothHigh) (hu ▸ .stop hc) hlimit rfl
    · cases hx
      exact errStep_conclude hc (stopStep_done hd ▸ hu) k
  | @send site b p hc =>
    have k := sendStep_kept b p s
    refine errStep_of_resume k (fun hs => ?_) (fun _ _ hx => .kept ((afterSend_err hx).trans k.err))
      (runOf_send hc hu ▸ h)
    obtain ⟨rfl, hlimit⟩ := sendStep_stuck hs
    exact .busStuck (c := .sclHigh) (hu ▸ .send hc) hlimit rfl
  | @recv a p hc =>
    have k := recvStep_kept a p s
    exact errStep_of_resume k (fun hs => absurd hs (recvStep_ne_stuck a p s))
      (fun _ _ hx => .kept ((afterRecv_err hx).trans k.err)) (runOf_recv hc hu ▸ h)

/-! ### What a command can end with (R182) -/

/-- A running command is never told illegal (R175, R180). -/
theorem ErrStep.ne_illegalCmd (e : ErrStep i s t) (hs : s.err = .ok) : t.err ≠ .illegalCmd := by
  cases e with
  | kept h => simp [h, hs]
  | busStuck _ _ h | nakAddress _ _ h | nakData _ _ h => simp [h]

/-- BUS_STUCK needs a bound (R97). -/
theorem ErrStep.waitLimit (e : ErrStep i s t) (hs : s.err = .ok) (ht : t.err = .busStuck) :
    s.cfg.waitLimit ≠ none := by
  cases e with
  | kept h => simp [h, hs] at ht
  | busStuck _ hlimit _ => exact hlimit
  | nakAddress _ _ h | nakData _ _ h => simp [h] at ht

/-- Away from the waits a step writes no ERR. -/
theorem ErrStep.kept_of_not_wait (e : ErrStep i s t) (hn : ∀ c, ¬ WaitPlace i c s.upc) :
    t.err = s.err := by
  cases e with
  | kept h => exact h
  | busStuck hw _ _ => exact absurd hw (hn _)
  | nakAddress hc hu _ | nakData hc hu _ => exact absurd (hu ▸ .stop hc) (hn .bothHigh)

/-- A command that turns no NAK into an error has BUS_STUCK only (R182). -/
theorem ErrStep.kept_or_busStuck (e : ErrStep i s t) (hc : ∀ after, callsStop i after → after = .success) :
    t.err = s.err ∨ t.err = .busStuck := by
  cases e with
  | kept h => exact .inl h
  | busStuck _ _ h => exact .inr h
  | nakAddress hn _ _ | nakData hn _ _ => cases hc _ hn

/-- A READ has no NAK of a data byte (R145). -/
theorem ErrStep.ne_noAckData (e : ErrStep i s t) (hs : s.err = .ok) (hc : ¬ callsStop i .nakData) :
    t.err ≠ .noAckData := by
  cases e with
  | kept h => simp [h, hs]
  | busStuck _ _ h | nakAddress _ _ h => simp [h]
  | nakData hn _ _ => exact absurd hn hc

/-- A command that calls none of the three waiting operations stands at no wait (R94, R98, R99, R127). -/
theorem not_waitPlace {c : WaitCond} {u : Upc} (hstart : ¬ callsStart i)
    (hstop : ∀ after, ¬ callsStop i after) (hsend : ∀ site, ¬ callsSend i site) : ¬ WaitPlace i c u
  | .start h => hstart h
  | .stop h => hstop _ h
  | .send h => hsend _ h

/-- A NAK that `send_byte` samples at A4 is ACK = 0 (R120, R182). -/
theorem ack_of_nak_at_a4 {site : SendSite} {b : Byte} (h : runOf i s = .next t)
    (hu : s.upc = .send site b .a4) (hv : (sample .sda s).1 = .high) : t.ack = false := by
  have hp := runOf_hasPlace h
  rw [hu] at hp
  cases hp with
  | send hc =>
    rw [runOf_send hc hu] at h
    cases h
    exact congrArg ackOf hv

end Errors

/-- Settles O46: ERR is OK while a command runs, and `ErrStep` names the ends that change it. -/
theorem errorsOfEachCommand : Obligations.ErrorsOfEachCommand := by
  intro s t i hs hb hd h
  have hok : s.err = .ok := (running_of_inv hs hb hd).1.errOk
  rw [exec_busy hb] at h
  have e := runOf_errStep h
  refine ⟨e.ne_illegalCmd hok, e.waitLimit hok, ?_⟩
  cases i with
  | release | driveLow | readLine | receiveByte =>
    exact (e.kept_of_not_wait fun _ => not_waitPlace id (fun _ => id) (fun _ => id)).trans hok
  | start => exact hok ▸ e.kept_or_busStuck fun _ => False.elim
  | stop => exact hok ▸ e.kept_or_busStuck fun _ => id
  | sendByte b =>
    refine ⟨hok ▸ e.kept_or_busStuck fun _ => False.elim, ?_⟩
    rintro ⟨site, c, hu⟩ hv
    refine ⟨ack_of_nak_at_a4 h hu hv, (e.kept_of_not_wait fun _ hw => ?_).trans hok⟩
    rw [hu] at hw
    cases hw
  | write => trivial
  | read => exact e.ne_noAckData hok fun hc => hc rfl

end Sys2Proof.Machine
end
